-- ==== Sys2Proof/Word.lean ====
section
/-! DEFINITION. The word types of the engine: what each port and operand carries (spec/00_scope.md R7, R8). -/

namespace Sys2Proof

/-- A command word, `CMD_W` = 16 bits (R7, R46). -/
abbrev CmdWord := BitVec 16

/-- A byte or a character code, `BYTE_W` = 8 bits; also one item of `OUT`, `OUT_W` = 8 bits (R7). -/
abbrev Byte := BitVec 8

/-- A symbol, `SYM_W` = 5 bits (R7). -/
abbrev Sym := BitVec 5

/-- The checksum accumulator's type, `ACC_W` = 30 bits (R7). -/
abbrev AccWord := BitVec 30

/-- A read-data word, `RDATA_W` = 32 bits (R7). -/
abbrev ReadWord := BitVec 32

/-- A completion code, 2 bits (R34). -/
abbrev CplCode := BitVec 2

end Sys2Proof
end

