-- ==== Sys2Proof/Syntax.lean ====
section
/-! DEFINITION. The 15 commands of the command set `B32E-1`, one constructor per row of spec/opcode_table.json (R49). The
operand types are those of the five shapes (R47): `B` a byte, `S` a symbol, `V` a variant bit, `R` a 3-bit register number. -/

namespace Sys2Proof

/-- A command with its operand (spec/30_encoding.md R47, R49). -/
inductive Instr where
  /-- `NOP` (R57). -/
  | nop
  /-- `SRST` (R58). -/
  | srst
  /-- `RD r` (R59); `r` is 3 bits wide, 6 and 7 are unassigned (R52). -/
  | rd (r : BitVec 3)
  /-- `CINIT` (R80). -/
  | cinit
  /-- `CVSEL v` (R81); 0 is Bech32 and 1 is Bech32m (R20). -/
  | cvsel (v : BitVec 1)
  /-- `CHRPH c` (R82). -/
  | chrph (c : Byte)
  /-- `CHRPL c` (R83). -/
  | chrpl (c : Byte)
  /-- `CSYM s` (R84). -/
  | csym (v : Sym)
  /-- `CFIN` (R85). -/
  | cfin
  /-- `CVFY` (R86). -/
  | cvfy
  /-- `RINIT` (R65). -/
  | rinit
  /-- `PB8 b` (R66). -/
  | pb8 (b : Byte)
  /-- `PFL` (R67). -/
  | pfl
  /-- `US5 s` (R68). -/
  | us5 (v : Sym)
  /-- `UEND` (R69). -/
  | uend
  deriving DecidableEq, Repr

/-- The mnemonic of a command, as spec/opcode_table.json spells it. -/
def Instr.mnemonic : Instr → String
  | .nop => "NOP"
  | .srst => "SRST"
  | .rd _ => "RD"
  | .cinit => "CINIT"
  | .cvsel _ => "CVSEL"
  | .chrph _ => "CHRPH"
  | .chrpl _ => "CHRPL"
  | .csym _ => "CSYM"
  | .cfin => "CFIN"
  | .cvfy => "CVFY"
  | .rinit => "RINIT"
  | .pb8 _ => "PB8"
  | .pfl => "PFL"
  | .us5 _ => "US5"
  | .uend => "UEND"

end Sys2Proof
end

