-- ==== Sys2Proof/WellFormed.lean ====
section
/-! DEFINITION. Which commands have a legal word (spec/30_encoding.md R47, R49, R52). Every operand but a register number
is legal at every value of its type, so `RD` carries the one check. -/

namespace Sys2Proof

/-- The command's operand is one of its shape's legal values (R47): a register number is at most 5, since 6 and 7 are
encodable but unassigned (R52). -/
def Instr.wellFormed : Instr → Bool
  | .rd r => r.toNat ≤ 5
  | .nop => true
  | .srst => true
  | .cinit => true
  | .cvsel _ => true
  | .chrph _ => true
  | .chrpl _ => true
  | .csym _ => true
  | .cfin => true
  | .cvfy => true
  | .rinit => true
  | .pb8 _ => true
  | .pfl => true
  | .us5 _ => true
  | .uend => true

end Sys2Proof
end

