-- ==== Sys2Proof/Decode.lean ====
section
/-! DEFINITION. From a command word to a command, total and rejecting by name (spec/30_encoding.md R46 to R54), and back. -/

namespace Sys2Proof

/-- Why a word spells no command (R105): the reasons of the completion codes `CPL_ILLOP` and `CPL_ILLFLD`. -/
inductive Reject where
  /-- `CPL_ILLOP`: the opcode is unassigned (R51). -/
  | illOp
  /-- `CPL_ILLFLD`: a reserved bit is set, or an operand is out of range, under an assigned opcode (R52). -/
  | illFld
  deriving DecidableEq, Repr

/-- The completion code of a rejection (R105). -/
def Reject.code : Reject → CplCode
  | .illOp => 1
  | .illFld => 2

/-- What a word decodes to: exactly one command, or a refusal (R50). -/
inductive Decoded where
  | command (i : Instr)
  | refuse (r : Reject)
  deriving DecidableEq, Repr

/-- Shape `N`: no operand, `arg` must be zero (R47, R50). -/
def shapeN (i : Instr) (arg : BitVec 8) : Decoded :=
  if arg = 0 then .command i else .refuse .illFld

/-- Shape `B`: the operand is all of `arg` (R47, R48). -/
def shapeB (f : Byte → Instr) (arg : BitVec 8) : Decoded :=
  .command (f arg)

/-- Shape `S`: `arg[7:5]` must be zero, the operand is `arg[4:0]` (R47, R48, R50). -/
def shapeS (f : Sym → Instr) (arg : BitVec 8) : Decoded :=
  if arg.extractLsb' 5 3 ≠ 0 then .refuse .illFld else .command (f (arg.extractLsb' 0 5))

/-- Shape `V`: `arg[7:1]` must be zero, the operand is `arg[0]` (R47, R48, R50). -/
def shapeV (f : BitVec 1 → Instr) (arg : BitVec 8) : Decoded :=
  if arg.extractLsb' 1 7 ≠ 0 then .refuse .illFld else .command (f (arg.extractLsb' 0 1))

/-- Shape `R`: `arg[7:3]` must be zero and `arg[2:0]`, the operand, at most 5 (R47, R48, R50, R52). -/
def shapeR (f : BitVec 3 → Instr) (arg : BitVec 8) : Decoded :=
  if arg.extractLsb' 3 5 ≠ 0 ∨ (arg.extractLsb' 0 3).toNat > 5 then .refuse .illFld
  else .command (f (arg.extractLsb' 0 3))

/-- The opcode map (R49) with each command's shape (R47), applied to the opcode and the operand field. Opcode `0x3` is the
one unassigned opcode of the 16 (R51). -/
def decodeOp (op : BitVec 4) (arg : BitVec 8) : Decoded :=
  match op.toNat with
  | 0x0 => shapeN .nop arg
  | 0x1 => shapeN .srst arg
  | 0x2 => shapeR .rd arg
  | 0x4 => shapeN .cinit arg
  | 0x5 => shapeV .cvsel arg
  | 0x6 => shapeB .chrph arg
  | 0x7 => shapeB .chrpl arg
  | 0x8 => shapeS .csym arg
  | 0x9 => shapeN .cfin arg
  | 0xA => shapeN .cvfy arg
  | 0xB => shapeN .rinit arg
  | 0xC => shapeB .pb8 arg
  | 0xD => shapeN .pfl arg
  | 0xE => shapeS .us5 arg
  | 0xF => shapeN .uend arg
  | _ => .refuse .illOp

/-- The decoding procedure of R50: the opcode is examined first (R51, R110), then `z`, then the operand by the shape. -/
def decode (w : CmdWord) : Decoded :=
  if w.extractLsb' 12 4 = 0x3 then .refuse .illOp
  else if w.extractLsb' 8 4 ≠ 0 then .refuse .illFld
  else decodeOp (w.extractLsb' 12 4) (w.extractLsb' 0 8)

/-- One row of the opcode map (R49, spec/opcode_table.json): a word `w` spells the command when `(w & mask) == fixed`
(and, for `RD`, its operand is at most 5). -/
structure OpcodeRow where
  mnemonic : String
  fixed : CmdWord
  mask : CmdWord
  deriving DecidableEq, Repr

/-- The opcode map, row by row as R49 lists it. -/
def opcodeTable : List OpcodeRow :=
  [⟨"NOP", 0x0000, 0xFFFF⟩, ⟨"SRST", 0x1000, 0xFFFF⟩, ⟨"RD", 0x2000, 0xFFF8⟩, ⟨"CINIT", 0x4000, 0xFFFF⟩,
   ⟨"CVSEL", 0x5000, 0xFFFE⟩, ⟨"CHRPH", 0x6000, 0xFF00⟩, ⟨"CHRPL", 0x7000, 0xFF00⟩, ⟨"CSYM", 0x8000, 0xFFE0⟩,
   ⟨"CFIN", 0x9000, 0xFFFF⟩, ⟨"CVFY", 0xA000, 0xFFFF⟩, ⟨"RINIT", 0xB000, 0xFFFF⟩, ⟨"PB8", 0xC000, 0xFF00⟩,
   ⟨"PFL", 0xD000, 0xFFFF⟩, ⟨"US5", 0xE000, 0xFFE0⟩, ⟨"UEND", 0xF000, 0xFFFF⟩]

/-- A word matches a row by its mask (R49). -/
def OpcodeRow.matches (row : OpcodeRow) (w : CmdWord) : Bool :=
  w &&& row.mask = row.fixed

/-- The word `(op << 12) | (z << 8) | arg` with `z = 0` (R46). -/
def encodeWord (op : BitVec 4) (arg : BitVec 8) : CmdWord :=
  (op.setWidth 16 <<< 12) ||| arg.setWidth 16

/-- The word of a command: its opcode (R49) and its operand, zero-extended, in `arg` (R47, R48). -/
def encode : Instr → CmdWord
  | .nop => encodeWord 0x0 0
  | .srst => encodeWord 0x1 0
  | .rd r => encodeWord 0x2 (r.setWidth 8)
  | .cinit => encodeWord 0x4 0
  | .cvsel v => encodeWord 0x5 (v.setWidth 8)
  | .chrph c => encodeWord 0x6 c
  | .chrpl c => encodeWord 0x7 c
  | .csym v => encodeWord 0x8 (v.setWidth 8)
  | .cfin => encodeWord 0x9 0
  | .cvfy => encodeWord 0xA 0
  | .rinit => encodeWord 0xB 0
  | .pb8 b => encodeWord 0xC b
  | .pfl => encodeWord 0xD 0
  | .us5 v => encodeWord 0xE (v.setWidth 8)
  | .uend => encodeWord 0xF 0

/-- The command word held in the low `nbits` bits of `w`, the bits above them zero (DESIGN CHOICE, safe: log
entry 1): `none` when what is left
does not fit one 16-bit command word, the one command length there is (R54). -/
def tableWord (nbits w : Nat) : Option CmdWord :=
  if w % 2 ^ nbits < 2 ^ 16 then some (BitVec.ofNat 16 (w % 2 ^ nbits)) else none

/-- The command the decoder reads from a word numbered as spec/opcode_table.json numbers it, `none` where it refuses. -/
def decodeTableWord (nbits w : Nat) : Option Instr :=
  match tableWord nbits w with
  | none => none
  | some v =>
    match decode v with
    | .command i => some i
    | .refuse _ => none

end Sys2Proof
end

