-- ==== Sys2Proof/Config.lean ====
section
/-! DEFINITION. The engine's parameters (spec/00_scope.md R7). Widths stand in the types of Word.lean. -/

namespace Sys2Proof.Config

/-- `ACC_INIT`, the initial accumulator (R7, R80): "A model should fix" it to this default. The spec supplied the value from
general knowledge and confirms it by the document's own example (spec/93_implementation_defined.md G3). -/
def accInit : AccWord := 0x00000001

/-- `GEN[0..4]`, the generator constants (R7, R77). The spec supplied the values from general knowledge (G1). -/
def gen : List AccWord := [0x3b6a57b2, 0x26508e6d, 0x1ea119fa, 0x3d4233dd, 0x2a1462b3]

/-- `CONST_BECH32` (R7). -/
def constBech32 : AccWord := 0x00000001

/-- `CONST_BECH32M` (R7). -/
def constBech32m : AccWord := 0x2bc830a3

/-- `HRP_MIN`, the least legal prefix character code (R7). -/
def hrpMin : Byte := 33

/-- `HRP_MAX`, the greatest legal prefix character code (R7). -/
def hrpMax : Byte := 126

/-- `CK_LEN`, the number of checksum symbols (R7). -/
def ckLen : Nat := 6

end Sys2Proof.Config
end

