-- ==== Sys2Proof/Machine/State.lean ====
section
/-! DEFINITION. The engine's state: the ten registers (spec/10_state.md R12), and the four ports by which words come in and
results go out (spec/20_memory.md R29). -/

namespace Sys2Proof.Machine

/-- The ten registers, all the architectural state there is (R12), each of the width R12 lists. R12 gives their total as 59 bits
but its widths add up to 53, and the model follows the widths (DEDUCED, unsafe: log entry 10). -/
structure Regs where
  /-- `ACC`, the polynomial checksum accumulator (R14). -/
  acc : BitVec 30
  /-- `VAR`, the variant for checksum creation, 0 Bech32 and 1 Bech32m (R20). -/
  var : BitVec 1
  /-- `MATCH`, the result of the last `CVFY`: bit 1 hit, bit 0 which variant (R21). -/
  mtch : BitVec 2
  /-- `HRPERR`, sticky: a prefix character outside 33 to 126 was absorbed (R19). -/
  hrpErr : BitVec 1
  /-- `PADERR`, sticky: the unpacker ended with non-zero leftover bits (R19). -/
  padErr : BitVec 1
  /-- `CMDERR`, sticky: a command word was refused (R19). -/
  cmdErr : BitVec 1
  /-- `PRES`, the packer's residue bits (R15). -/
  pres : BitVec 4
  /-- `PCNT`, how many residue bits the packer holds (R15). -/
  pcnt : BitVec 3
  /-- `URES`, the unpacker's residue bits (R16). -/
  ures : BitVec 7
  /-- `UCNT`, how many residue bits the unpacker holds (R16). -/
  ucnt : BitVec 3
  deriving DecidableEq, Repr

/-- The registers and the four ports. -/
structure State where
  /-- The ten registers. -/
  regs : Regs
  /-- `CMD`: the words the host has presented and the engine has not yet accepted, oldest first (R30; DESIGN CHOICE, safe: log
entry 1). -/
  cmd : List CmdWord
  /-- `OUT`: the items appended so far, oldest first (R31; DESIGN CHOICE, safe: log entry 2). -/
  out : List Byte
  /-- `RDATA`: the words delivered so far, oldest first (R33; DESIGN CHOICE, safe: log entry 2). -/
  rdata : List ReadWord
  /-- `CPL`: the completion codes delivered so far, oldest first (R34; DESIGN CHOICE, safe: log entry 2). -/
  cpl : List CplCode
  deriving DecidableEq, Repr

/-- The engine has no fault that ends a run, no stuck state and no hang (spec/60_exceptions.md R108), so no fault has a
name: the type is empty, and safe. -/
inductive Fault where
  deriving DecidableEq, Repr

/-- Why the model answers nothing for a command. -/
inductive Refusal where
  /-- Raised by an arm of `exec` whose command has no meaning yet, under the command's mnemonic; safe. No arm raises it. -/
  | notModelled (mnemonic : String)
  deriving DecidableEq, Repr

/-- What executing one command or one command word answers. -/
abbrev Result := Host.Outcome State Fault Refusal

/-- The registers after reset and after `SRST` (R26, last column of R12). -/
def Regs.reset : Regs where
  acc := Config.accInit
  var := 0
  mtch := 0
  hrpErr := 0
  padErr := 0
  cmdErr := 0
  pres := 0
  pcnt := 0
  ures := 0
  ucnt := 0

/-- The machine right after reset (spec/70_reset_and_hazards.md R116): the registers of R26, idle, nothing on any port. -/
def State.reset : State where
  regs := Regs.reset
  cmd := []
  out := []
  rdata := []
  cpl := []

end Sys2Proof.Machine
end

