-- ==== Sys2Proof/Machine/Flags.lean ====
section
/-! DEFINITION. The three sticky flags and `MATCH` (spec/10_state.md R19, R21): the value each command leaves in them. -/

namespace Sys2Proof.Machine

/-- A prefix character out of range: `c < 33` or `c > 126` (spec/42_checksum.md R82, R83; R19). -/
def hrpBad (c : Byte) : Bool :=
  c < Config.hrpMin || Config.hrpMax < c

/-- `HRPERR` after a prefix character: set when it is out of range, never cleared by one (R82, R83). -/
def hrpErrAfter (old : BitVec 1) (c : Byte) : BitVec 1 :=
  if hrpBad c then 1 else old

/-- `PADERR` after `UEND`: set when leftover bits are non-zero, else as it was (spec/41_regroup.md R69). -/
def padErrAfter (old : BitVec 1) (ures : BitVec 7) : BitVec 1 :=
  if ures ≠ 0 then 1 else old

/-- `MATCH` after `CVFY` (R86): `0b10` Bech32, `0b11` Bech32m, `0b00` none. -/
def matchCode (acc : AccWord) : BitVec 2 :=
  if acc = Config.constBech32 then 0b10
  else if acc = Config.constBech32m then 0b11
  else 0b00

end Sys2Proof.Machine
end

