-- ==== Sys2Proof/Machine/Operands.lean ====
section
/-! DEFINITION. What a command's operand stands for: the read view behind a register number, the two parts of a prefix
character, the constant behind a variant. -/

namespace Sys2Proof.Machine

/-- `fold(c)`: the lower-case folding of one character code (spec/42_checksum.md R78). -/
def fold (c : Byte) : Byte :=
  if 65 ≤ c.toNat ∧ c.toNat ≤ 90 then c + 32 else c

/-- The symbol `CHRPH c` absorbs: the high 3 bits of the folded character, zero-extended (R82). -/
def hrpHigh (c : Byte) : Sym :=
  ((fold c).extractLsb' 5 3).setWidth 5

/-- The symbol `CHRPL c` absorbs: the low 5 bits of the folded character (R83). -/
def hrpLow (c : Byte) : Sym :=
  (fold c).extractLsb' 0 5

/-- The variant constant `CFIN` XORs in, by the code of the variant (R85, R20). -/
def variantConst (v : BitVec 1) : AccWord :=
  if v = 0 then Config.constBech32 else Config.constBech32m

/-- The read view `STATUS` (spec/10_state.md R22). -/
def Regs.status (r : Regs) : ReadWord :=
  (r.cmdErr.setWidth 32 <<< 2) ||| (r.padErr.setWidth 32 <<< 1) ||| r.hrpErr.setWidth 32

/-- The read view `PSTATE`: `PRES` in bits 3:0, `PCNT` in bits 10:8 (R23). -/
def Regs.pstate (r : Regs) : ReadWord :=
  (r.pcnt.setWidth 32 <<< 8) ||| r.pres.setWidth 32

/-- The read view `USTATE`: `URES` in bits 6:0, `UCNT` in bits 10:8 (R23). -/
def Regs.ustate (r : Regs) : ReadWord :=
  (r.ucnt.setWidth 32 <<< 8) ||| r.ures.setWidth 32

/-- `reg[n]`, the read view of register number `n` (R23), and nothing for the unassigned numbers 6 and 7 (R52). -/
def Regs.view (r : Regs) (n : BitVec 3) : Option ReadWord :=
  match n.toNat with
  | 0 => some (r.acc.setWidth 32)
  | 1 => some (r.var.setWidth 32)
  | 2 => some (r.mtch.setWidth 32)
  | 3 => some r.status
  | 4 => some r.pstate
  | 5 => some r.ustate
  | _ => none

end Sys2Proof.Machine
end

