-- ==== Sys2Proof/Machine/Ops.lean ====
section
/-! DEFINITION. The shared operations: the ports (spec/00_scope.md R10), the refusal of a word (spec/60_exceptions.md R106),
the checksum step (spec/42_checksum.md R77), the residue arithmetic of the two regrouping channels (spec/41_regroup.md R66 to
R69), and the writes each makes to the registers. -/

namespace Sys2Proof.Machine

/-! ## The ports -/

/-- `CPL_OK` (R105). -/
def cplOk : CplCode := 0

/-- `emit` of a sequence: appends each symbol or byte to `OUT` as an 8-bit item, zero-extended (R10, R31). -/
def State.emit {n : Nat} (items : List (BitVec n)) (s : State) : State :=
  { s with out := s.out ++ items.map (·.setWidth 8) }

/-- `rdata(v)`: delivers a word on `RDATA` (R10, R33). -/
def State.deliver (v : ReadWord) (s : State) : State :=
  { s with rdata := s.rdata ++ [v] }

/-- `complete(code)`: ends the command word with its completion code (R10, R34). -/
def State.complete (code : CplCode) (s : State) : State :=
  { s with cpl := s.cpl ++ [code] }

/-- Puts new values in the registers; a command's writes take effect together (R10, R38). -/
def State.withRegs (r : Regs) (s : State) : State :=
  { s with regs := r }

/-- The host presents a word on the command port, after those still waiting there (R30; DESIGN CHOICE, safe: log entry 1). -/
def State.present (w : CmdWord) (s : State) : State :=
  { s with cmd := s.cmd ++ [w] }

/-- The engine accepts the next word: the oldest one waiting, if any, and the state without it (R30). -/
def State.fetch (s : State) : Option (CmdWord × State) :=
  match s.cmd with
  | [] => none
  | w :: ws => some (w, { s with cmd := ws })

/-! ## Refusal: the engine's one exception -/

/-- `refuse(code)` (R106): sets `CMDERR`, completes with the reason's code, and changes nothing else; the engine goes on.
There is no trap entry and no return (R111, R112). -/
def State.refuse (r : Reject) (s : State) : State :=
  (s.withRegs { s.regs with cmdErr := 1 }).complete r.code

/-- The end of a command that executes: `complete(CPL_OK)` and a next state. -/
def done (s : State) : Result :=
  .next (s.complete cplOk)

/-! ## Checksum -/

/-- The feedback of `polystep`: XORs into `t` the generator constants whose bit of `top` is 1 (R77). -/
def feedback (top : BitVec 5) : List AccWord → Nat → AccWord → AccWord
  | [], _, t => t
  | g :: gs, i, t => feedback top gs (i + 1) (if top.getLsbD i then t ^^^ g else t)

/-- `polystep(a, v)`, the accumulator update for one symbol (R77). -/
def polystep (a : AccWord) (v : Sym) : AccWord :=
  let top := a.extractLsb' 25 5
  let t := ((a.extractLsb' 0 25).setWidth 30 <<< 5) ||| v.setWidth 30
  feedback top Config.gen 0 t

/-- The accumulator after a sequence of symbols, in order (R79, R84). -/
def polysteps (a : AccWord) (vs : List Sym) : AccWord :=
  vs.foldl polystep a

/-- A 30-bit value split into 6 groups of 5 bits, most significant first (R85, R35). -/
def splitSix (t : AccWord) : List Sym :=
  [t.extractLsb' 25 5, t.extractLsb' 20 5, t.extractLsb' 15 5, t.extractLsb' 10 5, t.extractLsb' 5 5, t.extractLsb' 0 5]

/-- The symbols `CFIN` emits: six zero symbols absorbed into a temporary copy of the accumulator, the variant's constant
XORed in, the result split (R85). -/
def checksumSymbols (acc : AccWord) (v : BitVec 1) : List Sym :=
  splitSix (polysteps acc (List.replicate Config.ckLen 0) ^^^ variantConst v)

/-- Registers after one symbol is absorbed (R84). -/
def Regs.absorb (v : Sym) (r : Regs) : Regs :=
  { r with acc := polystep r.acc v }

/-- Registers after the range check of a prefix character (R82, R83). -/
def Regs.checkHrp (c : Byte) (r : Regs) : Regs :=
  { r with hrpErr := hrpErrAfter r.hrpErr c }

/-- Registers after `CINIT` (R80). -/
def Regs.initChecksum (r : Regs) : Regs :=
  { r with acc := Config.accInit, mtch := 0, hrpErr := 0 }

/-- Registers after `CVSEL v` (R81). -/
def Regs.selectVariant (v : BitVec 1) (r : Regs) : Regs :=
  { r with var := v }

/-- Registers after `CVFY` (R86). -/
def Regs.verify (r : Regs) : Regs :=
  { r with mtch := matchCode r.acc }

/-! ## Regrouping -/

/-- The low `n` bits of a channel's 12-bit working value: `acc & ((1 << n) - 1)` (R66, R68). -/
def lowBits (acc : BitVec 12) (n : Nat) : BitVec 12 :=
  acc &&& (((1 : BitVec 12) <<< n) - 1)

/-- The packer's 12-bit working value: the residue, then the new byte (R66). -/
def packBits (pres : BitVec 4) (b : Byte) : BitVec 12 :=
  (pres.setWidth 12 <<< 8) ||| b.setWidth 12

/-- The packer's loop `while n >= 5` (R66): the groups it emits, oldest bits first. Three rounds are enough for every value
of `n`, which is at most 15 (at most 12 where `PCNT <= 4`; above that, DESIGN CHOICE,
unsafe only for a claim about such a value: log entry 4). -/
def packGroups (acc : BitVec 12) : Nat → Nat → List Sym
  | 0, _ => []
  | fuel + 1, n =>
    if 5 ≤ n then ((acc >>> (n - 5)) &&& 0x1F).setWidth 5 :: packGroups acc fuel (n - 5) else []

/-- The symbols `PB8 b` emits (R66). -/
def packItems (r : Regs) (b : Byte) : List Sym :=
  packGroups (packBits r.pres b) 3 (r.pcnt.toNat + 8)

/-- Registers after `PB8 b` (R66): the loop leaves `n mod 5` bits held. -/
def Regs.pack (b : Byte) (r : Regs) : Regs :=
  let n := (r.pcnt.toNat + 8) % 5
  { r with pres := (lowBits (packBits r.pres b) n).setWidth 4, pcnt := BitVec.ofNat 3 n }

/-- The symbols `PFL` emits: the last group, zero-padded at its low end, when any real bits are held
(R67; with `PCNT` above 5, which never occurs, no shift: DESIGN CHOICE, log entry 4). -/
def flushItems (r : Regs) : List Sym :=
  if 0 < r.pcnt.toNat then [r.pres.setWidth 5 <<< (5 - r.pcnt.toNat)] else []

/-- Registers after `PFL` (R67). -/
def Regs.flush (r : Regs) : Regs :=
  { r with pres := 0, pcnt := 0 }

/-- The unpacker's 12-bit working value: the residue, then the new symbol (R68). -/
def unpackBits (ures : BitVec 7) (v : Sym) : BitVec 12 :=
  (ures.setWidth 12 <<< 5) ||| v.setWidth 12

/-- The bytes `US5 s` emits: one when 8 bits are held (R68). -/
def unpackItems (r : Regs) (v : Sym) : List Byte :=
  let n := r.ucnt.toNat + 5
  if 8 ≤ n then [((unpackBits r.ures v >>> (n - 8)) &&& 0xFF).setWidth 8] else []

/-- Registers after `US5 s` (R68): `n` bits held, less the 8 of an emitted byte. -/
def Regs.unpack (v : Sym) (r : Regs) : Regs :=
  let held := r.ucnt.toNat + 5
  let n := if 8 ≤ held then held - 8 else held
  { r with ures := (lowBits (unpackBits r.ures v) n).setWidth 7, ucnt := BitVec.ofNat 3 n }

/-- Registers after `UEND` (R69). -/
def Regs.endUnpack (r : Regs) : Regs :=
  { r with padErr := padErrAfter r.padErr r.ures, ures := 0, ucnt := 0 }

/-- Registers after `RINIT` (R65). -/
def Regs.initRegroup (r : Regs) : Regs :=
  { r with pres := 0, pcnt := 0, ures := 0, ucnt := 0, padErr := 0 }

end Sys2Proof.Machine
end

