-- ==== Sys2Proof/Machine/Checksum.lean ====
section
/-! DEFINITION. The checksum commands (spec/42_checksum.md). -/

namespace Sys2Proof.Machine

/-- `CINIT` (R80). -/
def execCinit (s : State) : Result :=
  done (s.withRegs s.regs.initChecksum)

/-- `CVSEL v` (R81). -/
def execCvsel (v : BitVec 1) (s : State) : Result :=
  done (s.withRegs (s.regs.selectVariant v))

/-- `CHRPH c` (R82): the accumulator is updated also when the flag is set. -/
def execChrph (c : Byte) (s : State) : Result :=
  done (s.withRegs ((s.regs.checkHrp c).absorb (hrpHigh c)))

/-- `CHRPL c` (R83). -/
def execChrpl (c : Byte) (s : State) : Result :=
  done (s.withRegs ((s.regs.checkHrp c).absorb (hrpLow c)))

/-- `CSYM s` (R84). -/
def execCsym (v : Sym) (s : State) : Result :=
  done (s.withRegs (s.regs.absorb v))

/-- `CFIN` (R85): emits the 6 checksum symbols and writes no register. -/
def execCfin (s : State) : Result :=
  done (s.emit (checksumSymbols s.regs.acc s.regs.var))

/-- `CVFY` (R86). -/
def execCvfy (s : State) : Result :=
  done (s.withRegs s.regs.verify)

end Sys2Proof.Machine
end

