-- ==== Sys2Proof/Machine/Control.lean ====
section
/-! DEFINITION. The control commands (spec/40_control.md). -/

namespace Sys2Proof.Machine

/-- `NOP` (R57). -/
def execNop (s : State) : Result :=
  done s

/-- `SRST` (R58): every register to its reset value; the ports' history stays. -/
def execSrst (s : State) : Result :=
  done (s.withRegs Regs.reset)

/-- `RD r` (R59): delivers `reg[r]`. The numbers 6 and 7 have no view: such a command is refused with `CPL_ILLFLD` (R52), as
its word is at decoding (DEDUCED, safe: log entry 6). -/
def execRd (r : BitVec 3) (s : State) : Result :=
  match s.regs.view r with
  | some w => done (s.deliver w)
  | none => .next (s.refuse .illFld)

end Sys2Proof.Machine
end

