-- ==== Sys2Proof/Machine/Regroup.lean ====
section
/-! DEFINITION. The regrouping commands (spec/41_regroup.md). -/

namespace Sys2Proof.Machine

/-- `RINIT` (R65). -/
def execRinit (s : State) : Result :=
  done (s.withRegs s.regs.initRegroup)

/-- `PB8 b` (R66). -/
def execPb8 (b : Byte) (s : State) : Result :=
  done ((s.emit (packItems s.regs b)).withRegs (s.regs.pack b))

/-- `PFL` (R67). -/
def execPfl (s : State) : Result :=
  done ((s.emit (flushItems s.regs)).withRegs s.regs.flush)

/-- `US5 s` (R68). -/
def execUs5 (v : Sym) (s : State) : Result :=
  done ((s.emit (unpackItems s.regs v)).withRegs (s.regs.unpack v))

/-- `UEND` (R69): emits nothing; bad padding is a value, so it completes with `CPL_OK` all the same. -/
def execUend (s : State) : Result :=
  done (s.withRegs s.regs.endUnpack)

end Sys2Proof.Machine
end

