-- ==== Sys2Proof/Machine/Dispatch.lean ====
section
/-! DEFINITION. One arm per command. -/

namespace Sys2Proof.Machine

-- The meaning of one command.
def exec (i : Instr) (s : State) : Host.Outcome State Fault Refusal :=
  match i with
  | .nop => Sys2Proof.Machine.execNop s
  | .srst => Sys2Proof.Machine.execSrst s
  | .rd r => Sys2Proof.Machine.execRd r s
  | .cinit => Sys2Proof.Machine.execCinit s
  | .cvsel v => Sys2Proof.Machine.execCvsel v s
  | .chrph c => Sys2Proof.Machine.execChrph c s
  | .chrpl c => Sys2Proof.Machine.execChrpl c s
  | .csym v => Sys2Proof.Machine.execCsym v s
  | .cfin => Sys2Proof.Machine.execCfin s
  | .cvfy => Sys2Proof.Machine.execCvfy s
  | .rinit => Sys2Proof.Machine.execRinit s
  | .pb8 b => Sys2Proof.Machine.execPb8 b s
  | .pfl => Sys2Proof.Machine.execPfl s
  | .us5 v => Sys2Proof.Machine.execUs5 v s
  | .uend => Sys2Proof.Machine.execUend s

end Sys2Proof.Machine
end

