-- ==== Sys2Proof/Machine/Step.lean ====
section
/-! DEFINITION. One step of the engine: the execution of one command word (spec/20_memory.md R27, R30, R41). -/

namespace Sys2Proof.Machine

/-- Accepts the oldest word waiting on `CMD` and executes or refuses it (R50, R106). With no word waiting the engine does
not act and its state does not change (R27). -/
def step (s : State) : Host.Outcome State Fault Refusal :=
  match s.fetch with
  | none => .next s
  | some (w, s') =>
    match decode w with
    | .command i => exec i s'
    | .refuse r => .next (s'.refuse r)

/-- The state with a word placed as the one `step` accepts next (DESIGN CHOICE, safe: log entry 1). A number that is no 16-bit word places
nothing. -/
def State.withFetchWord (s : State) (nbits w : Nat) : State :=
  match tableWord nbits w with
  | some v => { s with cmd := v :: s.cmd }
  | none => s

end Sys2Proof.Machine
end

