-- ==== Sys2Proof/Machine/Transactions.lean ====
section
/-! DEFINITION. How the host drives the engine: it presents a command's word, lets the engine execute it, and reads the
ports; and the command sequences of the four transactions (spec/41_regroup.md R70, R71; spec/42_checksum.md R87, R88) and of
the pseudo-instructions (spec/30_encoding.md R56). -/

namespace Sys2Proof.Machine

/-- The next state of a result, if it answers one. -/
def nextState? : Result → Option State
  | .next s => some s
  | .fault _ => none
  | .refused _ => none

/-- The host issues one command: presents its word and lets the engine make one step (R30; DESIGN CHOICE, safe: log
entry 5). The word is the
one executed when no other is waiting. -/
def issue (i : Instr) (s : State) : Option State :=
  nextState? (step (s.present (encode i)))

/-- The host issues commands one after another, each to completion before the next (R41). -/
def issueAll : List Instr → State → Option State
  | [], s => some s
  | i :: rest, s => (issue i s).bind (issueAll rest)

/-- `take()`: issues a command and takes the items it appended to `OUT` (spec/43_codec_sequences.md; R32). -/
def issueTake (i : Instr) (s : State) : Option (List Byte × State) :=
  (issue i s).map fun t => (t.out.drop s.out.length, t)

/-- Issues `RD r` and takes the word it delivered on `RDATA` (R33, R59). -/
def issueRead (r : BitVec 3) (s : State) : Option (ReadWord × State) :=
  (issue (.rd r) s).bind fun t => (t.rdata.drop s.rdata.length).head?.map fun w => (w, t)

/-! ## Pseudo-instructions (R56) -/

/-- `CSEP`: `CSYM 0`. -/
def csep : List Instr :=
  [.csym 0]

/-- `CHRP "c1...cn"`: the `2n + 1` commands that absorb the whole expanded prefix. -/
def chrp (hrp : List Byte) : List Instr :=
  hrp.map .chrph ++ csep ++ hrp.map .chrpl

/-- `CDATA s1, ..., sn`: absorbs a list of symbols. -/
def cdata (symbols : List Sym) : List Instr :=
  symbols.map .csym

/-! ## Transactions -/

/-- The commands of `bytesToBits5(bytes)` (R70). -/
def bytesToBits5Commands (bytes : List Byte) : List Instr :=
  [.rinit] ++ bytes.map .pb8 ++ [.pfl]

/-- The commands of `bits5ToBytes(symbols)` (R71). -/
def bits5ToBytesCommands (symbols : List Sym) : List Instr :=
  [.rinit] ++ symbols.map .us5 ++ [.uend, .rd 3]

/-- The commands of `checksum(hrp, data5, variant)` (R87). -/
def checksumCommands (hrp : List Byte) (data : List Sym) (variant : BitVec 1) : List Instr :=
  [.cinit, .cvsel variant] ++ chrp hrp ++ cdata data ++ [.cfin]

/-- The commands of `verifyChecksum(hrp, data5full)` (R88). -/
def verifyChecksumCommands (hrp : List Byte) (data : List Sym) : List Instr :=
  [.cinit] ++ chrp hrp ++ cdata data ++ [.cvfy, .rd 2]

end Sys2Proof.Machine
end

