-- ==== Sys2Proof/Machine/Assembler.lean ====
section
/-! DEFINITION. The assembler syntax the spec writes commands in (spec/30_encoding.md R55) and the pseudo-instructions (R56):
from the characters of a line to the command words it stands for, `none` when the line is not in the syntax. What R55
and R56 leave open about blanks, quotes, digits, out-of-range operands and empty lists is log entry 8 (DESIGN CHOICE,
unsafe). -/

namespace Sys2Proof.Machine.Asm

/-- The text of a line up to a `#` that stands in no quotes (R55). The first argument says whether a string of `CHRP` is open.
R55 gives no scanning order for quotes; the model reads from left to right, takes three characters `'c'` together whatever `c`
is (so `''' # x` is a quoted apostrophe and a comment), takes every character between double quotes as the string's, and gives
any other apostrophe no meaning (DESIGN CHOICE, unsafe: log entry 8). -/
def stripComment : Bool → List Char → List Char
  | _, [] => []
  | true, c :: cs => c :: stripComment (c ≠ '"') cs
  | false, '\'' :: c :: '\'' :: cs => '\'' :: c :: '\'' :: stripComment false cs
  | false, c :: cs => if c = '#' then [] else c :: stripComment (c = '"') cs

/-- The text without its trailing blanks (DESIGN CHOICE, unsafe: log entry 8). -/
def trimRight (cs : List Char) : List Char :=
  (cs.reverse.dropWhile (· = ' ')).reverse

/-- The value of a digit in base 16, either case. -/
def digit (c : Char) : Option Nat :=
  if '0' ≤ c ∧ c ≤ '9' then some (c.toNat - 48)
  else if 'A' ≤ c ∧ c ≤ 'F' then some (c.toNat - 55)
  else if 'a' ≤ c ∧ c ≤ 'f' then some (c.toNat - 87)
  else none

/-- Digits in a base, most significant first, after a value already read. -/
def digits (base : Nat) : List Char → Nat → Option Nat
  | [], acc => some acc
  | c :: cs, acc =>
    match digit c with
    | some d => if d < base then digits base cs (base * acc + d) else none
    | none => none

/-- A hexadecimal number `0x...` (R55). -/
def hexNumber : List Char → Option Nat
  | '0' :: 'x' :: c :: cs => digits 16 (c :: cs) 0
  | _ => none

/-- A number, hexadecimal or decimal (R55). -/
def number (cs : List Char) : Option Nat :=
  match hexNumber cs with
  | some n => some n
  | none => if cs = [] then none else digits 10 cs 0

/-- A number that is at most `max`. -/
def numberUpTo (max : Nat) (cs : List Char) : Option Nat :=
  (number cs).bind fun n => if n ≤ max then some n else none

/-- The code of a printable ASCII character, 32 to 126 (log entry 8). -/
def printable (c : Char) : Option Byte :=
  if 32 ≤ c.toNat ∧ c.toNat ≤ 126 then some (BitVec.ofNat 8 c.toNat) else none

/-- The operand of shape `B`: a number, or one printable character in single quotes (R55). -/
def operandB : List Char → Option Byte
  | ['\'', c, '\''] => printable c
  | cs => (numberUpTo 255 cs).map (BitVec.ofNat 8)

/-- The operand of shape `S` (R55). -/
def operandS (cs : List Char) : Option Sym :=
  (numberUpTo 31 cs).map (BitVec.ofNat 5)

/-- A number that names stand for. -/
def named (names : List (List Char)) (cs : List Char) : Option Nat :=
  match names.idxOf? cs with
  | some n => some n
  | none => numberUpTo (names.length - 1) cs

/-- The operand of shape `V`: 0, 1 or a variant's name (R55). -/
def operandV (cs : List Char) : Option (BitVec 1) :=
  (named [['B', 'E', 'C', 'H', '3', '2'], ['B', 'E', 'C', 'H', '3', '2', 'M']] cs).map (BitVec.ofNat 1)

/-- The operand of shape `R`: 0 to 5 or a register's name (R55). -/
def operandR (cs : List Char) : Option (BitVec 3) :=
  (named [['A', 'C', 'C'], ['V', 'A', 'R'], ['M', 'A', 'T', 'C', 'H'], ['S', 'T', 'A', 'T', 'U', 'S'],
    ['P', 'S', 'T', 'A', 'T', 'E'], ['U', 'S', 'T', 'A', 'T', 'E']] cs).map (BitVec.ofNat 3)

/-- The characters of `CHRP "c1...cn"` after the opening quote (R56). R56 does not say whether `n` may be 0; the model accepts
the empty string, which expands to `CSYM 0` alone (DESIGN CHOICE, unsafe: log entry 8). -/
def quoted : List Char → Option (List Byte)
  | [] => none
  | ['"'] => some []
  | c :: cs => if c = '"' then none else (printable c).bind fun b => (quoted cs).map (b :: ·)

/-- Splits a list of operands at each comma and the blank after it. -/
def splitCommas : List Char → List Char → List (List Char)
  | [], current => [current.reverse]
  | ',' :: ' ' :: cs, current => current.reverse :: splitCommas cs []
  | c :: cs, current => splitCommas cs (c :: current)

/-- The symbols of `CDATA s1, s2, ..., sn` (R56). R56 does not say whether `n` may be 0; the model rejects `CDATA` with no
symbol: `line` finds no operand, or `splitCommas` leaves an empty one (DESIGN CHOICE, unsafe: log entry 8). -/
def symbolList : List (List Char) → Option (List Sym)
  | [] => some []
  | c :: cs => (operandS c).bind fun v => (symbolList cs).map (v :: ·)

/-- The commands of shape `N`, by mnemonic (R47), and the pseudo-instruction `CSEP` (R56). -/
def plainCommands : List (List Char × List Instr) :=
  [(['N', 'O', 'P'], [.nop]), (['S', 'R', 'S', 'T'], [.srst]), (['C', 'I', 'N', 'I', 'T'], [.cinit]),
   (['C', 'F', 'I', 'N'], [.cfin]), (['C', 'V', 'F', 'Y'], [.cvfy]), (['R', 'I', 'N', 'I', 'T'], [.rinit]),
   (['P', 'F', 'L'], [.pfl]), (['U', 'E', 'N', 'D'], [.uend]), (['C', 'S', 'E', 'P'], csep)]

/-- A command with an operand, or a pseudo-instruction with one (R55, R56). -/
def operandCommand (mnemonic operand : List Char) : Option (List Instr) :=
  if mnemonic = ['R', 'D'] then (operandR operand).map fun r => [.rd r]
  else if mnemonic = ['C', 'V', 'S', 'E', 'L'] then (operandV operand).map fun v => [.cvsel v]
  else if mnemonic = ['C', 'H', 'R', 'P', 'H'] then (operandB operand).map fun c => [.chrph c]
  else if mnemonic = ['C', 'H', 'R', 'P', 'L'] then (operandB operand).map fun c => [.chrpl c]
  else if mnemonic = ['C', 'S', 'Y', 'M'] then (operandS operand).map fun v => [.csym v]
  else if mnemonic = ['P', 'B', '8'] then (operandB operand).map fun b => [.pb8 b]
  else if mnemonic = ['U', 'S', '5'] then (operandS operand).map fun v => [.us5 v]
  else if mnemonic = ['C', 'H', 'R', 'P'] then
    match operand with
    | '"' :: cs => (quoted cs).map chrp
    | _ => none
  else if mnemonic = ['C', 'D', 'A', 'T', 'A'] then (symbolList (splitCommas operand [])).map cdata
  else none

/-- `.word 0xNNNN`: an arbitrary 16-bit word, refused or not (R55), written with any number of digits (DESIGN CHOICE, unsafe:
log entry 8). -/
def rawWord (operand : List Char) : Option (List CmdWord) :=
  (hexNumber operand).bind fun n => if n < 2 ^ 16 then some [BitVec.ofNat 16 n] else none

/-- The words a line stands for: none for a blank line or a comment (R55). A mnemonic with no operand is a command of shape `N`
or `CSEP`, so `CDATA` alone is rejected (DESIGN CHOICE, unsafe: log entry 8). -/
def line (text : List Char) : Option (List CmdWord) :=
  let body := trimRight (stripComment false text)
  let mnemonic := body.takeWhile (· ≠ ' ')
  if body = [] then some []
  else
    match body.dropWhile (· ≠ ' ') with
    | [] => (plainCommands.lookup mnemonic).map (·.map encode)
    | _ :: operand =>
      if mnemonic = ['.', 'w', 'o', 'r', 'd'] then rawWord operand
      else (operandCommand mnemonic operand).map (·.map encode)

/-- The words of a program, one command a line (R55). -/
def program : List (List Char) → Option (List CmdWord)
  | [] => some []
  | l :: ls => (line l).bind fun ws => (program ls).map (ws ++ ·)

end Sys2Proof.Machine.Asm
end

