-- ==== Sys2Proof/Machine/Codec.lean ====
section
/-! DEFINITION. The host's codec procedures over the engine: charset, case, separator, `encode` and `decode`
(spec/43_codec_sequences.md R91 to R103). A string is a list of character codes (R91). `none` is the document's "no result"
(R102). -/

namespace Sys2Proof.Machine

/-! ## Case and charset -/

/-- A code is upper-case when it is 65 to 90 (R92). -/
def isUpper (c : Byte) : Bool :=
  65 ≤ c.toNat && c.toNat ≤ 90

/-- A code is lower-case when it is 97 to 122 (R92). -/
def isLower (c : Byte) : Bool :=
  97 ≤ c.toNat && c.toNat ≤ 122

/-- A string is mixed-case when it holds an upper-case and a lower-case code (R92). -/
def mixedCase (str : List Byte) : Bool :=
  str.any isUpper && str.any isLower

/-- `lower(str)` (R92). -/
def lower (str : List Byte) : List Byte :=
  str.map fold

/-- `upper(str)`: the upper-casing that R104 property 2 speaks of, subtracting 32 from the lower-case letters
(spec/92_eei_decisions.md D32). -/
def upper (str : List Byte) : List Byte :=
  str.map fun c => if isLower c then c - 32 else c

/-- The separator `1` (R95, R91). -/
def separator : Byte := 0x31

/-- The charset, index = symbol value: `qpzry9x8gf2tvdw0s3jn54khce6mua7l` (R93). -/
def charset : List Byte :=
  [0x71, 0x70, 0x7A, 0x72, 0x79, 0x39, 0x78, 0x38,
   0x67, 0x66, 0x32, 0x74, 0x76, 0x64, 0x77, 0x30,
   0x73, 0x33, 0x6A, 0x6E, 0x35, 0x34, 0x6B, 0x68,
   0x63, 0x65, 0x36, 0x6D, 0x75, 0x61, 0x37, 0x6C]

/-- `CHAR[s]` (R93). -/
def charOf (v : Sym) : Byte :=
  charset.getD v.toNat 0

/-- `SYM[c]`, and `none` for `invalid` (R94). -/
def symOf (c : Byte) : Option Sym :=
  (charset.idxOf? c).map (BitVec.ofNat 5)

/-- The symbols of a data part, or `none` when a character is not in the charset (R99 step 5). -/
def symbolsOf : List Byte → Option (List Sym)
  | [] => some []
  | c :: cs => (symOf c).bind fun v => (symbolsOf cs).map (v :: ·)

/-- Splits a string at its last separator into prefix and data part, `none` when it has none (R99 step 3, R100). -/
def splitLast : List Byte → Option (List Byte × List Byte)
  | [] => none
  | c :: cs =>
    match splitLast cs with
    | some (hrp, dp) => some (c :: hrp, dp)
    | none => if c = separator then some ([], cs) else none

/-- A length beyond the cap `MAX_LEN`; with no cap none is (R97; DEDUCED, safe: log entry 7). -/
def overCap (maxLen : Option Nat) (len : Nat) : Bool :=
  match maxLen with
  | none => false
  | some m => m < len

/-- A prefix is valid when it is not empty and every code is in 33 to 126 (R96). -/
def validHrp (hrp : List Byte) : Bool :=
  hrp ≠ [] && hrp.all fun c => 33 ≤ c.toNat && c.toNat ≤ 126

/-! ## Encode -/

/-- Issues a packer command and absorbs each symbol it emits (R98 step 5). -/
def packAbsorb (i : Instr) (s : State) : Option (List Sym × State) :=
  (issueTake i s).bind fun (items, t) =>
    let symbols := items.map (·.setWidth 5)
    (issueAll (cdata symbols) t).map fun u => (symbols, u)

/-- R98 step 5: packs the payload byte by byte, then flushes, absorbing every symbol; answers the symbols in order. -/
def encodePayload : List Byte → State → Option (List Sym × State)
  | [], s => packAbsorb .pfl s
  | b :: rest, s =>
    (packAbsorb (.pb8 b) s).bind fun (d, t) =>
      (encodePayload rest t).map fun (ds, u) => (d ++ ds, u)

/-- `encode(hrp, payload, variant)` (R98), step by step, from any state of an idle engine, with the engine's state when it
returns. -/
def encodeString (maxLen : Option Nat) (hrp payload : List Byte) (variant : BitVec 1) (s : State) :
    Option (List Byte × State) :=
  if hrp = [] then none
  else
    (issueAll ([.srst, .cvsel variant] ++ chrp hrp) s).bind fun s3 =>
    (issueRead 3 s3).bind fun (w, s4) =>
    if w.getLsbD 0 then none
    else
      (encodePayload payload s4).bind fun (d, s5) =>
      (issueTake .cfin s5).bind fun (k, s6) =>
      let out := lower hrp ++ [separator] ++ d.map charOf ++ k.map fun v => charOf (v.setWidth 5)
      if overCap maxLen out.length then none else some (out, s6)

/-! ## Decode -/

/-- What `decode` returns: the prefix, the payload and the variant that matched (R99, R101). -/
structure CodecResult where
  hrp : List Byte
  payload : List Byte
  variant : BitVec 1
  deriving DecidableEq, Repr

/-- R99 step 8: unpacks the payload symbols, answering the bytes in order. -/
def decodePayload : List Sym → State → Option (List Byte × State)
  | [], s => some ([], s)
  | v :: rest, s =>
    (issueTake (.us5 v) s).bind fun (bytes, t) =>
      (decodePayload rest t).map fun (more, u) => (bytes ++ more, u)

/-- R99 steps 6 to 9, for a prefix and the symbols of the data part: the engine's part of `decode`. -/
def decodeSymbols (hrp : List Byte) (d : List Sym) (s : State) : Option (CodecResult × State) :=
  (issueAll ([.srst] ++ chrp hrp) s).bind fun s6 =>
  (issueRead 3 s6).bind fun (w, s6') =>
  if w.getLsbD 0 then none
  else
    (issueAll (cdata d ++ [.cvfy]) s6').bind fun s7 =>
    (issueRead 2 s7).bind fun (m, s7') =>
    if m = 0 then none
    else
      (decodePayload (d.take (d.length - 6)) s7').bind fun (bytes, s8) =>
      (issueAll [.uend] s8).bind fun s8' =>
      (issueRead 3 s8').bind fun (w', s9) =>
      if w'.getLsbD 1 then none else some (⟨hrp, bytes, m.extractLsb' 0 1⟩, s9)

/-- `decode(input)` (R99), step by step, from any state of an idle engine, with the engine's state when it returns. -/
def decodeString (maxLen : Option Nat) (input : List Byte) (s : State) : Option (CodecResult × State) :=
  if mixedCase input then none
  else if overCap maxLen input.length then none
  else
    (splitLast (lower input)).bind fun (hrp, dp) =>
    if hrp = [] then none
    else if dp.length < 6 then none
    else (symbolsOf dp).bind fun d => decodeSymbols hrp d s

end Sys2Proof.Machine
end

