-- ==== Sys2Proof/Machine/Functions.lean ====
section
/-! DEFINITION. The four whole-sequence functions of the document, as the spec reads them, with no machine in them
(spec/41_regroup.md R63, R64; spec/42_checksum.md R74, R75, R79). The transactions of Machine/Transactions.lean compute them
on the engine. -/

namespace Sys2Proof.Machine

/-! ## Regrouping -/

/-- The bits of a value, most significant first (R63, R35). -/
def msbFirst {n : Nat} (v : BitVec n) : List Bool :=
  (List.range n).map v.getMsbD

/-- The string `T` of the bits of a sequence, each value most significant bit first, in order (R63, R64). -/
def bitString {n : Nat} (vs : List (BitVec n)) : List Bool :=
  vs.flatMap msbFirst

/-- Group `j` of `w` bits: bits `w*j` to `w*j + w - 1` of the string, the earliest bit most significant, a position past the
end of the string counting as zero (R63, R64). -/
def bitGroup (w : Nat) (bits : List Bool) (j : Nat) : BitVec w :=
  BitVec.ofNat w ((List.range w).foldl (fun acc i => 2 * acc + (bits.getD (w * j + i) false).toNat) 0)

/-- `bytesToBits5` (R63): `ceil(8n / 5)` symbols. -/
def bytesToBits5 (bytes : List Byte) : List Sym :=
  (List.range ((8 * bytes.length + 4) / 5)).map (bitGroup 5 (bitString bytes))

/-- The leftover of a symbol sequence: the last `5k mod 8` bits of its string (R64). -/
def leftover (symbols : List Sym) : List Bool :=
  (bitString symbols).drop (8 * (5 * symbols.length / 8))

/-- `bits5ToBytes` (R64): `floor(5k / 8)` bytes, and a failure when at least one leftover bit is 1. -/
def bits5ToBytes (symbols : List Sym) : Option (List Byte) :=
  if true ∈ leftover symbols then none
  else some ((List.range (5 * symbols.length / 8)).map (bitGroup 8 (bitString symbols)))

/-! ## Checksum -/

/-- `polymod(seq)` (R79). -/
def polymod (seq : List Sym) : AccWord :=
  polysteps Config.accInit seq

/-- `expand(hrp)`, the expanded prefix of `2n + 1` symbols (R79). -/
def expand (hrp : List Byte) : List Sym :=
  hrp.map hrpHigh ++ [0] ++ hrp.map hrpLow

/-- `checksum(hrp, data5, variant)` (R74, R87). -/
def checksum (hrp : List Byte) (data : List Sym) (variant : BitVec 1) : List Sym :=
  splitSix (polymod (expand hrp ++ data ++ List.replicate Config.ckLen 0) ^^^ variantConst variant)

/-- `verifyChecksum(hrp, data5full)`: the variant whose constant the result equals, or none (R75, R88). -/
def verifyChecksum (hrp : List Byte) (data : List Sym) : Option (BitVec 1) :=
  if polymod (expand hrp ++ data) = variantConst 0 then some 0
  else if polymod (expand hrp ++ data) = variantConst 1 then some 1
  else none

end Sys2Proof.Machine
end

