-- ==== Sys2Proof/Safety.lean ====
section
/-! DEFINITION. The terms claims are made in: the invariants of the state, who reads and writes what, and which unit a
command belongs to. -/

namespace Sys2Proof.Machine

/-- The packer's invariant (spec/10_state.md R15). -/
abbrev Regs.PackerOk (r : Regs) : Prop :=
  r.pcnt.toNat ≤ 4 ∧ r.pres.toNat < 2 ^ r.pcnt.toNat

/-- The unpacker's invariant (R16): `UCNT <= 7` is the width of the register. -/
abbrev Regs.UnpackerOk (r : Regs) : Prop :=
  r.ures.toNat < 2 ^ r.ucnt.toNat

/-- `MATCH` never holds `0b01` (R21). -/
abbrev Regs.MatchOk (r : Regs) : Prop :=
  r.mtch ≠ 0b01

/-- The invariant of the state: the two channels' residues fit their counts, `MATCH` is one of its three codes, and the
completion code 3 has never been delivered (R15, R16, R21, R34). -/
abbrev State.Inv (s : State) : Prop :=
  s.regs.PackerOk ∧ s.regs.UnpackerOk ∧ s.regs.MatchOk ∧ ∀ c ∈ s.cpl, c ≠ 3

/-- No word has been refused since the last reset: what R108 lets a cautious claim restrict itself to. -/
abbrev State.NoRefusal (s : State) : Prop :=
  s.regs.cmdErr = 0

/-- The engine is idle: no word waits on the command port. -/
abbrev State.Idle (s : State) : Prop :=
  s.cmd = []

/-! ## The write matrix (R25) -/

/-- The columns of the write matrix (R25). -/
inductive Column where
  | acc | var | mtch | hrpErr | padErr | cmdErr | packer | unpacker
  deriving DecidableEq, Repr

/-- What a column holds: a register, or a channel's residue and count together. -/
def Regs.column (r : Regs) : Column → Nat
  | .acc => r.acc.toNat
  | .var => r.var.toNat
  | .mtch => r.mtch.toNat
  | .hrpErr => r.hrpErr.toNat
  | .padErr => r.padErr.toNat
  | .cmdErr => r.cmdErr.toNat
  | .packer => 16 * r.pcnt.toNat + r.pres.toNat
  | .unpacker => 128 * r.ucnt.toNat + r.ures.toNat

end Sys2Proof.Machine

namespace Sys2Proof

open Machine (Column)

/-- The columns marked `w` in a command's row of R25. -/
def Instr.writes : Instr → List Column
  | .nop => []
  | .srst => [.acc, .var, .mtch, .hrpErr, .padErr, .cmdErr, .packer, .unpacker]
  | .rd _ => []
  | .cinit => [.acc, .mtch, .hrpErr]
  | .cvsel _ => [.var]
  | .chrph _ => [.acc, .hrpErr]
  | .chrpl _ => [.acc, .hrpErr]
  | .csym _ => [.acc]
  | .cfin => []
  | .cvfy => [.mtch]
  | .rinit => [.padErr, .packer, .unpacker]
  | .pb8 _ => [.packer]
  | .pfl => [.packer]
  | .us5 _ => [.unpacker]
  | .uend => [.padErr, .unpacker]

/-- The columns marked `r` in a command's row of R25. -/
def Instr.reads : Instr → List Column
  | .nop => []
  | .srst => []
  | .rd r =>
    if r = 0 then [.acc] else if r = 1 then [.var] else if r = 2 then [.mtch]
    else if r = 3 then [.hrpErr, .padErr, .cmdErr] else if r = 4 then [.packer] else if r = 5 then [.unpacker] else []
  | .cinit => []
  | .cvsel _ => []
  | .chrph _ => [.acc]
  | .chrpl _ => [.acc]
  | .csym _ => [.acc]
  | .cfin => [.acc, .var]
  | .cvfy => [.acc]
  | .rinit => []
  | .pb8 _ => [.packer]
  | .pfl => [.packer]
  | .us5 _ => [.unpacker]
  | .uend => [.unpacker]

/-! ## Units (R17) -/

/-- The packer's commands (R17). -/
def Instr.isPacker : Instr → Bool
  | .pb8 _ | .pfl => true
  | .nop | .srst | .rd _ | .cinit | .cvsel _ | .chrph _ | .chrpl _ | .csym _ | .cfin | .cvfy | .rinit | .us5 _ | .uend => false

/-- The unpacker's commands (R17). -/
def Instr.isUnpacker : Instr → Bool
  | .us5 _ | .uend => true
  | .nop | .srst | .rd _ | .cinit | .cvsel _ | .chrph _ | .chrpl _ | .csym _ | .cfin | .cvfy | .rinit | .pb8 _ | .pfl => false

/-- The regrouping commands: both channels' and `RINIT` (spec/30_encoding.md R49, column "unit"). -/
def Instr.isRegroup (i : Instr) : Bool :=
  i.isPacker || i.isUnpacker || i = .rinit

/-- The checksum commands (R49, column "unit"). -/
def Instr.isChecksum : Instr → Bool
  | .cinit | .cvsel _ | .chrph _ | .chrpl _ | .csym _ | .cfin | .cvfy => true
  | .nop | .srst | .rd _ | .rinit | .pb8 _ | .pfl | .us5 _ | .uend => false

end Sys2Proof
end

