-- ==== Sys2Proof/Certificates/Slice0/Obligations.lean ====
section
/-! DEFINITION. The statements for the provers. Field `hi:lo` of a word is written `extractLsb' lo (hi - lo + 1)`. -/

open Sys2Proof Sys2Proof.Machine

/-! ## Reset and the step -/

/-- R26: what reset and `SRST` leave in the registers, and the read views of those values. -/
def Obligations.ResetAndSrstLeaveSpecifiedValues : Prop :=
  Machine.State.reset.regs = ⟨0x00000001, 0, 0, 0, 0, 0, 0, 0, 0, 0⟩ ∧
  (∀ s : Machine.State,
    exec .srst s = .next { s with regs := ⟨0x00000001, 0, 0, 0, 0, 0, 0, 0, 0, 0⟩, cpl := s.cpl ++ [0] }) ∧
  (∀ s : Machine.State, s.regs = Machine.State.reset.regs →
    exec (.rd 0) s = .next { s with rdata := s.rdata ++ [0x00000001], cpl := s.cpl ++ [0] } ∧
    ∀ r : BitVec 3, 1 ≤ r.toNat → r.toNat ≤ 5 →
      exec (.rd r) s = .next { s with rdata := s.rdata ++ [0x00000000], cpl := s.cpl ++ [0] })

/-- R116: reset leaves the engine idle, with nothing on any port. That `CMD` is a list, empty at reset, and that the three
output ports are held in the state, are the model's choices (log entries 1 and 2). -/
def Obligations.ResetIsIdleWithEmptyPorts : Prop :=
  Machine.State.reset.cmd = [] ∧ Machine.State.reset.out = [] ∧ Machine.State.reset.rdata = [] ∧
  Machine.State.reset.cpl = [] ∧ step Machine.State.reset = .next Machine.State.reset

/-- R27, R30, R50: a step takes the oldest presented word off `CMD` and is `exec` of the command it spells; with no word
presented the state does not change. That the words wait in a list is the model's choice (log entry 1). -/
def Obligations.StepRunsTheDecodedCommand : Prop :=
  (∀ (s : Machine.State) (w : CmdWord) (ws : List CmdWord) (i : Instr),
    s.cmd = w :: ws → decode w = .command i → step s = exec i { s with cmd := ws }) ∧
  (∀ s : Machine.State, s.cmd = [] → step s = .next s)

/-- R106, R105: a refused word sets `CMDERR`, delivers its code, and changes nothing else; `CMDERR` then stays set through
every command but `SRST`. -/
def Obligations.RefusedWordOnlySetsCmderr : Prop :=
  (∀ (s : Machine.State) (w : CmdWord) (ws : List CmdWord) (r : Reject),
    s.cmd = w :: ws → decode w = .refuse r →
      step s = .next { s with
        cmd := ws
        regs := { s.regs with cmdErr := 1 }
        cpl := s.cpl ++ [if r = .illOp then (1 : CplCode) else 2] }) ∧
  (∀ s t : Machine.State, step s = .next t → s.regs.cmdErr = 1 → t.regs.cmdErr = 1 ∨ s.cmd.head? = some 0x1000)

/-- R34: every command word gets exactly one completion code: 0 when it spells a command, 1 or 2 when it is refused, never
3. Whatever the state, the step answers a next state (R108). -/
def Obligations.EveryWordCompletesWithOneCode : Prop :=
  ∀ (s : Machine.State) (w : CmdWord) (ws : List CmdWord), s.cmd = w :: ws →
    ∃ (t : Machine.State) (c : CplCode), step s = .next t ∧ t.cmd = ws ∧ t.cpl = s.cpl ++ [c] ∧
      (c = 0 ↔ ∃ i, decode w = .command i) ∧ (c = 1 ↔ decode w = .refuse .illOp) ∧
      (c = 2 ↔ decode w = .refuse .illFld) ∧ c ≠ 3

/-- R108, R34, R105: every command completes in every state and leaves the waiting words alone; a well-formed one delivers
`CPL_OK`. That `exec` answers for the ill-formed `RD 6` and `RD 7` too is the model's (log entry 6). -/
def Obligations.EveryCommandCompletes : Prop :=
  ∀ (i : Instr) (s : Machine.State), ∃ t : Machine.State, exec i s = .next t ∧ t.cmd = s.cmd ∧
    (i.wellFormed = true → t.cpl = s.cpl ++ [0])

/-- R30, R41: the engine executes the presented words one a step, in order, losing and repeating none: after as many steps
as words wait, the port is empty and one code has come out for each word, in the words' order. -/
def Obligations.PresentedWordsAreAllExecutedInOrder : Prop :=
  ∀ s : Machine.State, ∃ t : Machine.State, core.run s.cmd.length s = .next t ∧ t.cmd = [] ∧
    t.cpl = s.cpl ++ s.cmd.map fun w =>
      match decode w with
      | .command _ => (0 : CplCode)
      | .refuse .illOp => 1
      | .refuse .illFld => 2

/-! ## Encoding -/

/-- Words written out from the spec's opcode map and its table of decodings (95_test_vectors.md section 2.1). -/
def Obligations.SampleWordsDecode : Prop :=
  decode 0x0000 = .command .nop ∧ decode 0x1000 = .command .srst ∧ decode 0x2005 = .command (.rd 5) ∧
  decode 0x2006 = .refuse .illFld ∧ decode 0x3ABC = .refuse .illOp ∧ decode 0x4000 = .command .cinit ∧
  decode 0x5001 = .command (.cvsel 1) ∧ decode 0x5002 = .refuse .illFld ∧ decode 0x6061 = .command (.chrph 97) ∧
  decode 0x7031 = .command (.chrpl 49) ∧ decode 0x801F = .command (.csym 31) ∧ decode 0x8020 = .refuse .illFld ∧
  decode 0x9000 = .command .cfin ∧ decode 0xA000 = .command .cvfy ∧ decode 0xB000 = .command .rinit ∧
  decode 0xC0FF = .command (.pb8 255) ∧ decode 0xCF00 = .refuse .illFld ∧ decode 0xD000 = .command .pfl ∧
  decode 0xE01F = .command (.us5 31) ∧ decode 0xF000 = .command .uend ∧ decode 0xFFFF = .refuse .illFld

/-- Decoding an encoded well-formed command gives it back, with every operand at every value the encoding admits. -/
def Obligations.DecodeOfEncodeIsTheCommand : Prop :=
  ∀ i : Instr, i.wellFormed = true → decode (encode i) = .command i

/-- R50, R53: each legal word has one meaning and each well-formed command one word: what a word decodes to is well-formed
and encodes to that word. -/
def Obligations.EncodeOfDecodeIsTheWord : Prop :=
  ∀ (w : CmdWord) (i : Instr), decode w = .command i → i.wellFormed = true ∧ encode i = w

/-- R51, R52: which words are refused, and with which code. -/
def Obligations.RefusedWordsByReason : Prop :=
  (∀ w : CmdWord, decode w = .refuse .illOp ↔ 0x3000 ≤ w.toNat ∧ w.toNat ≤ 0x3FFF) ∧
  (∀ w : CmdWord, decode w = .refuse .illFld ↔
    w.extractLsb' 12 4 ≠ 0x3 ∧
    (w.extractLsb' 8 4 ≠ 0 ∨
     (w.extractLsb' 12 4 ∈ [0x0, 0x1, 0x4, 0x9, 0xA, 0xB, 0xD, 0xF] ∧ w.extractLsb' 0 8 ≠ 0) ∨
     (w.extractLsb' 12 4 ∈ [0x8, 0xE] ∧ w.extractLsb' 5 3 ≠ 0) ∨
     (w.extractLsb' 12 4 = 0x5 ∧ w.extractLsb' 1 7 ≠ 0) ∨
     (w.extractLsb' 12 4 = 0x2 ∧ (w.extractLsb' 3 5 ≠ 0 ∨ w.extractLsb' 0 3 = 6 ∨ w.extractLsb' 0 3 = 7)))) ∧
  Reject.illOp.code = 1 ∧ Reject.illFld.code = 2

/-- R49: a word spells a command exactly when it matches that command's row of the opcode map by match and mask (for `RD`
also an operand of at most 5), and no word matches two rows. -/
def Obligations.DecodeAgreesWithTheOpcodeMap : Prop :=
  (∀ (w : CmdWord) (m : String),
    (∃ i, decode w = .command i ∧ i.mnemonic = m) ↔
    ∃ row ∈ opcodeTable, row.mnemonic = m ∧ w &&& row.mask = row.fixed ∧ (m = "RD" → (w.extractLsb' 0 3).toNat ≤ 5)) ∧
  opcodeTable.Pairwise fun a b => ∀ w : CmdWord, ¬(w &&& a.mask = a.fixed ∧ w &&& b.mask = b.fixed)

/-- R49's totals: of the 65,536 words 848 spell a command, 4096 are refused with `CPL_ILLOP` and 60,592 with `CPL_ILLFLD`. -/
def Obligations.CountsOfLegalAndRefusedWords : Prop :=
  ((List.range 65536).countP fun w => match decode (BitVec.ofNat 16 w) with | .command _ => true | .refuse _ => false) = 848 ∧
  ((List.range 65536).countP fun w => decode (BitVec.ofNat 16 w) = .refuse .illOp) = 4096 ∧
  ((List.range 65536).countP fun w => decode (BitVec.ofNat 16 w) = .refuse .illFld) = 60592

/-! ## The commands: encoding, refusal, effect. Everything the record update does not name is unchanged. -/

/-- R57. -/
def Obligations.NopChangesNoRegister : Prop :=
  decode 0x0000 = .command .nop ∧
  (∀ w : CmdWord, w.extractLsb' 12 4 = 0x0 → w ≠ 0x0000 → decode w = .refuse .illFld) ∧
  (∀ s : Machine.State, exec .nop s = .next { s with cpl := s.cpl ++ [0] })

/-- R58: the reset values, which are those of `CINIT`, `RINIT` and `CVSEL 0` together with `CMDERR` cleared, which no
other command clears; `OUT` and `RDATA` keep their history. -/
def Obligations.SrstResetsEveryRegister : Prop :=
  decode 0x1000 = .command .srst ∧
  (∀ w : CmdWord, w.extractLsb' 12 4 = 0x1 → w ≠ 0x1000 → decode w = .refuse .illFld) ∧
  (∀ s : Machine.State, exec .srst s = .next { s with regs := Machine.State.reset.regs, cpl := s.cpl ++ [0] }) ∧
  (∀ s a b c : Machine.State, exec .cinit s = .next a → exec .rinit a = .next b → exec (.cvsel 0) b = .next c →
    exec .srst s = .next { s with regs := { c.regs with cmdErr := 0 }, cpl := s.cpl ++ [0] }) ∧
  (∀ (i : Instr) (s t : Machine.State), exec i s = .next t → s.regs.cmdErr = 1 → t.regs.cmdErr = 0 → i = .srst)

/-- R59, R23: `RD r` delivers the view of register number `r` and writes no register; 6 and 7 are refused. -/
def Obligations.RdDeliversTheRegisterView : Prop :=
  (∀ r : BitVec 3, r.toNat ≤ 5 → decode (0x2000 ||| r.setWidth 16) = .command (.rd r)) ∧
  (∀ w : CmdWord, w.extractLsb' 12 4 = 0x2 →
    (w.extractLsb' 8 4 ≠ 0 ∨ w.extractLsb' 3 5 ≠ 0 ∨ w.extractLsb' 0 3 = 6 ∨ w.extractLsb' 0 3 = 7) →
    decode w = .refuse .illFld) ∧
  (∀ (r : BitVec 3) (s : Machine.State), r.toNat ≤ 5 →
    exec (.rd r) s = .next { s with
      rdata := s.rdata ++ [BitVec.ofNat 32
        (if r = 0 then s.regs.acc.toNat
         else if r = 1 then s.regs.var.toNat
         else if r = 2 then s.regs.mtch.toNat
         else if r = 3 then 4 * s.regs.cmdErr.toNat + 2 * s.regs.padErr.toNat + s.regs.hrpErr.toNat
         else if r = 4 then 256 * s.regs.pcnt.toNat + s.regs.pres.toNat
         else 256 * s.regs.ucnt.toNat + s.regs.ures.toNat)]
      cpl := s.cpl ++ [0] })

/-- R52, R59, in the model's terms: `exec` of the ill-formed commands `RD 6` and `RD 7` does what their words do, a refusal
with `CPL_ILLFLD` and nothing delivered (log entry 6). -/
def Obligations.RdOfUnassignedNumberIsRefused : Prop :=
  ∀ (r : BitVec 3) (s : Machine.State), 5 < r.toNat →
    exec (.rd r) s = .next { s with regs := { s.regs with cmdErr := 1 }, cpl := s.cpl ++ [2] } ∧
    decode (encode (.rd r)) = .refuse .illFld

/-- R80. -/
def Obligations.CinitStartsAChecksum : Prop :=
  decode 0x4000 = .command .cinit ∧
  (∀ w : CmdWord, w.extractLsb' 12 4 = 0x4 → w ≠ 0x4000 → decode w = .refuse .illFld) ∧
  (∀ s : Machine.State, exec .cinit s = .next { s with
    regs := { s.regs with acc := 0x00000001, mtch := 0b00, hrpErr := 0 }
    cpl := s.cpl ++ [0] })

/-- R81. -/
def Obligations.CvselSelectsTheVariant : Prop :=
  (∀ v : BitVec 1, decode (0x5000 ||| v.setWidth 16) = .command (.cvsel v)) ∧
  (∀ w : CmdWord, w.extractLsb' 12 4 = 0x5 → (w.extractLsb' 8 4 ≠ 0 ∨ w.extractLsb' 1 7 ≠ 0) →
    decode w = .refuse .illFld) ∧
  (∀ (v : BitVec 1) (s : Machine.State),
    exec (.cvsel v) s = .next { s with regs := { s.regs with var := v }, cpl := s.cpl ++ [0] })

/-- R82, with R78's folding written out: the high 3 bits of the folded character are absorbed, and `HRPERR` is set, and
never cleared, by a character outside 33 to 126. -/
def Obligations.ChrphAbsorbsTheHighPart : Prop :=
  (∀ c : Byte, decode (0x6000 ||| c.setWidth 16) = .command (.chrph c)) ∧
  (∀ w : CmdWord, w.extractLsb' 12 4 = 0x6 → w.extractLsb' 8 4 ≠ 0 → decode w = .refuse .illFld) ∧
  (∀ (c : Byte) (s : Machine.State), exec (.chrph c) s = .next { s with
    regs := { s.regs with
      acc := polystep s.regs.acc
        (BitVec.ofNat 5 ((if 65 ≤ c.toNat ∧ c.toNat ≤ 90 then c.toNat + 32 else c.toNat) / 32))
      hrpErr := if c.toNat < 33 ∨ 126 < c.toNat then 1 else s.regs.hrpErr }
    cpl := s.cpl ++ [0] })

/-- R83: the low 5 bits of the folded character, which are those of the character itself. -/
def Obligations.ChrplAbsorbsTheLowPart : Prop :=
  (∀ c : Byte, decode (0x7000 ||| c.setWidth 16) = .command (.chrpl c)) ∧
  (∀ w : CmdWord, w.extractLsb' 12 4 = 0x7 → w.extractLsb' 8 4 ≠ 0 → decode w = .refuse .illFld) ∧
  (∀ (c : Byte) (s : Machine.State), exec (.chrpl c) s = .next { s with
    regs := { s.regs with
      acc := polystep s.regs.acc (BitVec.ofNat 5 (c.toNat % 32))
      hrpErr := if c.toNat < 33 ∨ 126 < c.toNat then 1 else s.regs.hrpErr }
    cpl := s.cpl ++ [0] })

/-- R84, with its corner case: five symbols absorbed by an accumulator of 1 only shift. -/
def Obligations.CsymAbsorbsTheSymbol : Prop :=
  (∀ v : Sym, decode (0x8000 ||| v.setWidth 16) = .command (.csym v)) ∧
  (∀ w : CmdWord, w.extractLsb' 12 4 = 0x8 → (w.extractLsb' 8 4 ≠ 0 ∨ w.extractLsb' 5 3 ≠ 0) →
    decode w = .refuse .illFld) ∧
  (∀ (v : Sym) (s : Machine.State), exec (.csym v) s = .next { s with
    regs := { s.regs with acc := polystep s.regs.acc v }
    cpl := s.cpl ++ [0] }) ∧
  (∀ v1 v2 v3 v4 v5 : Sym,
    (polystep (polystep (polystep (polystep (polystep 1 v1) v2) v3) v4) v5).toNat =
      2 ^ 25 + 2 ^ 20 * v1.toNat + 2 ^ 15 * v2.toNat + 2 ^ 10 * v3.toNat + 2 ^ 5 * v4.toNat + v5.toNat)

/-- R85: six zero symbols absorbed by a temporary copy of `ACC`, the constant of `VAR` XORed in, the six 5-bit groups
emitted most significant first; no register is written. -/
def Obligations.CfinEmitsTheChecksum : Prop :=
  decode 0x9000 = .command .cfin ∧
  (∀ w : CmdWord, w.extractLsb' 12 4 = 0x9 → w ≠ 0x9000 → decode w = .refuse .illFld) ∧
  (∀ s : Machine.State,
    let t := (polystep (polystep (polystep (polystep (polystep (polystep s.regs.acc 0) 0) 0) 0) 0) 0 ^^^
      (if s.regs.var = 0 then 0x00000001 else 0x2bc830a3)).toNat
    exec .cfin s = .next { s with
      out := s.out ++
        [t / 2 ^ 25, t / 2 ^ 20 % 32, t / 2 ^ 15 % 32, t / 2 ^ 10 % 32, t / 2 ^ 5 % 32, t % 32].map (BitVec.ofNat 8)
      cpl := s.cpl ++ [0] })

/-- R86. -/
def Obligations.CvfyReportsTheMatchingVariant : Prop :=
  decode 0xA000 = .command .cvfy ∧
  (∀ w : CmdWord, w.extractLsb' 12 4 = 0xA → w ≠ 0xA000 → decode w = .refuse .illFld) ∧
  (∀ s : Machine.State, exec .cvfy s = .next { s with
    regs := { s.regs with
      mtch := if s.regs.acc = 0x00000001 then 0b10 else if s.regs.acc = 0x2bc830a3 then 0b11 else 0b00 }
    cpl := s.cpl ++ [0] })

/-- R65. -/
def Obligations.RinitEmptiesBothChannels : Prop :=
  decode 0xB000 = .command .rinit ∧
  (∀ w : CmdWord, w.extractLsb' 12 4 = 0xB → w ≠ 0xB000 → decode w = .refuse .illFld) ∧
  (∀ s : Machine.State, exec .rinit s = .next { s with
    regs := { s.regs with pres := 0, pcnt := 0, ures := 0, ucnt := 0, padErr := 0 }
    cpl := s.cpl ++ [0] })

/-- R66, with its table of counts: `PCNT` residue bits and the byte's 8 are one number; the groups of 5 leave from its top
and the rest stays. The premise is the packer's invariant (R15). -/
def Obligations.Pb8PacksAByte : Prop :=
  (∀ b : Byte, decode (0xC000 ||| b.setWidth 16) = .command (.pb8 b)) ∧
  (∀ w : CmdWord, w.extractLsb' 12 4 = 0xC → w.extractLsb' 8 4 ≠ 0 → decode w = .refuse .illFld) ∧
  (∀ (b : Byte) (s : Machine.State), s.regs.PackerOk →
    let held := 256 * s.regs.pres.toNat + b.toNat
    ∃ items count : Nat,
      (s.regs.pcnt.toNat, items, count) ∈ [(0, 1, 3), (1, 1, 4), (2, 2, 0), (3, 2, 1), (4, 2, 2)] ∧
      exec (.pb8 b) s = .next { s with
        out := s.out ++ (if items = 1 then [held / 2 ^ count] else [held / 2 ^ (count + 5), held / 2 ^ count % 32]).map
          (BitVec.ofNat 8)
        regs := { s.regs with pres := BitVec.ofNat 4 (held % 2 ^ count), pcnt := BitVec.ofNat 3 count }
        cpl := s.cpl ++ [0] })

/-- R67. The premise is the packer's invariant (R15). -/
def Obligations.PflFlushesThePacker : Prop :=
  decode 0xD000 = .command .pfl ∧
  (∀ w : CmdWord, w.extractLsb' 12 4 = 0xD → w ≠ 0xD000 → decode w = .refuse .illFld) ∧
  (∀ s : Machine.State, s.regs.PackerOk →
    exec .pfl s = .next { s with
      out := s.out ++
        if s.regs.pcnt = 0 then [] else [BitVec.ofNat 8 (s.regs.pres.toNat * 2 ^ (5 - s.regs.pcnt.toNat))]
      regs := { s.regs with pres := 0, pcnt := 0 }
      cpl := s.cpl ++ [0] })

/-- R68, with its table of counts. The premise is the unpacker's invariant (R16). -/
def Obligations.Us5UnpacksASymbol : Prop :=
  (∀ v : Sym, decode (0xE000 ||| v.setWidth 16) = .command (.us5 v)) ∧
  (∀ w : CmdWord, w.extractLsb' 12 4 = 0xE → (w.extractLsb' 8 4 ≠ 0 ∨ w.extractLsb' 5 3 ≠ 0) →
    decode w = .refuse .illFld) ∧
  (∀ (v : Sym) (s : Machine.State), s.regs.UnpackerOk →
    let held := 32 * s.regs.ures.toNat + v.toNat
    ∃ items count : Nat,
      (s.regs.ucnt.toNat, items, count) ∈
        [(0, 0, 5), (1, 0, 6), (2, 0, 7), (3, 1, 0), (4, 1, 1), (5, 1, 2), (6, 1, 3), (7, 1, 4)] ∧
      exec (.us5 v) s = .next { s with
        out := s.out ++ if items = 0 then [] else [BitVec.ofNat 8 (held / 2 ^ count)]
        regs := { s.regs with ures := BitVec.ofNat 7 (held % 2 ^ count), ucnt := BitVec.ofNat 3 count }
        cpl := s.cpl ++ [0] })

/-- R69. -/
def Obligations.UendChecksTheLeftover : Prop :=
  decode 0xF000 = .command .uend ∧
  (∀ w : CmdWord, w.extractLsb' 12 4 = 0xF → w ≠ 0xF000 → decode w = .refuse .illFld) ∧
  (∀ s : Machine.State, exec .uend s = .next { s with
    regs := { s.regs with padErr := if s.regs.ures = 0 then s.regs.padErr else 1, ures := 0, ucnt := 0 }
    cpl := s.cpl ++ [0] })

/-! ## Rules about the whole machine -/

/-- R32: how many items a command appends to `OUT`, and a refused word none. The premise is the packer's invariant (R15),
which bounds `PCNT` by 4. -/
def Obligations.ItemsAppendedByEachCommand : Prop :=
  ∀ (s t : Machine.State) (w : CmdWord) (ws : List CmdWord), s.regs.PackerOk → s.cmd = w :: ws → step s = .next t →
    ∃ items : List Byte, t.out = s.out ++ items ∧
      items.length =
        match decode w with
        | .command (.pb8 _) => if s.regs.pcnt.toNat ≤ 1 then 1 else 2
        | .command .pfl => if s.regs.pcnt.toNat = 0 then 0 else 1
        | .command (.us5 _) => if 3 ≤ s.regs.ucnt.toNat then 1 else 0
        | .command .cfin => 6
        | _ => 0

/-- R33: `RDATA` gets one word, the view of the state as it is, for each `RD` that is not refused, and nothing for any other
word. -/
def Obligations.RdataDeliversOnlyForRd : Prop :=
  ∀ (s t : Machine.State) (w : CmdWord) (ws : List CmdWord), s.cmd = w :: ws → step s = .next t →
    (∃ (r : BitVec 3) (v : ReadWord), decode w = .command (.rd r) ∧ s.regs.view r = some v ∧ t.rdata = s.rdata ++ [v]) ∨
    ((∀ r : BitVec 3, decode w ≠ .command (.rd r)) ∧ t.rdata = s.rdata)

/-- R38: reading has no side effect and is idempotent: two `RD r` in a row deliver the same word and leave every register
as it was. -/
def Obligations.ReadingTwiceGivesTheSameWord : Prop :=
  ∀ (r : BitVec 3) (s : Machine.State), r.toNat ≤ 5 → s.Idle →
    ∃ (t : Machine.State) (v : ReadWord), issueAll [.rd r, .rd r] s = some t ∧ t.rdata = s.rdata ++ [v, v] ∧
      t.regs = s.regs ∧ t.out = s.out

/-- R19: what sets and what clears each sticky flag, and what writes `MATCH`, over every word a step can take. -/
def Obligations.FlagsChangeOnlyAsTheirRuleSays : Prop :=
  ∀ (s t : Machine.State) (w : CmdWord) (ws : List CmdWord), s.cmd = w :: ws → step s = .next t →
    (w = 0x4000 ∨ w = 0x1000 → t.regs.hrpErr = 0) ∧
    (∀ c : Byte, c.toNat < 33 ∨ 126 < c.toNat → w = 0x6000 ||| c.setWidth 16 ∨ w = 0x7000 ||| c.setWidth 16 →
      t.regs.hrpErr = 1) ∧
    (w ≠ 0x4000 → w ≠ 0x1000 →
      (∀ c : Byte, c.toNat < 33 ∨ 126 < c.toNat → w ≠ 0x6000 ||| c.setWidth 16 ∧ w ≠ 0x7000 ||| c.setWidth 16) →
      t.regs.hrpErr = s.regs.hrpErr) ∧
    t.regs.padErr =
      (if w = 0xB000 ∨ w = 0x1000 then 0
       else if w = 0xF000 ∧ s.regs.ures ≠ 0 then 1 else s.regs.padErr) ∧
    (w = 0x1000 → t.regs.cmdErr = 0) ∧
    (∀ r, decode w = .refuse r → t.regs.cmdErr = 1) ∧
    (∀ i, decode w = .command i → w ≠ 0x1000 → t.regs.cmdErr = s.regs.cmdErr) ∧
    t.regs.mtch =
      (if w = 0x4000 ∨ w = 0x1000 then 0b00
       else if w = 0xA000 then
         (if s.regs.acc = 0x00000001 then 0b10 else if s.regs.acc = 0x2bc830a3 then 0b11 else 0b00)
       else s.regs.mtch)

/-- R25, the write matrix: a command writes only the columns its row marks `w`; and, run from two states that agree on the
columns its row marks `r`, it appends the same items and words and leaves in each column either the same value in both or, in
both, what was there. A refused word writes `CMDERR` alone. -/
def Obligations.CommandsReadAndWriteOnlyTheirColumns : Prop :=
  (∀ (i : Instr) (s s' t t' : Machine.State), i.wellFormed = true → exec i s = .next t → exec i s' = .next t' →
    (∀ c, c ∉ i.writes → t.regs.column c = s.regs.column c) ∧
    ((∀ c ∈ i.reads, s.regs.column c = s'.regs.column c) →
      (∃ (items : List Byte) (words : List ReadWord),
        t.out = s.out ++ items ∧ t'.out = s'.out ++ items ∧ t.rdata = s.rdata ++ words ∧ t'.rdata = s'.rdata ++ words) ∧
      (∀ c ∈ i.writes, t.regs.column c = t'.regs.column c ∨
        (t.regs.column c = s.regs.column c ∧ t'.regs.column c = s'.regs.column c)))) ∧
  (∀ (s t : Machine.State) (w : CmdWord) (ws : List CmdWord) (r : Reject),
    s.cmd = w :: ws → decode w = .refuse r → step s = .next t →
    ∀ c, c ≠ .cmdErr → t.regs.column c = s.regs.column c)

/-- R17: a regrouping command and a checksum command, or a packer command and an unpacker command, leave the same registers
in either order. -/
def Obligations.UnitsDoNotDisturbEachOther : Prop :=
  ∀ (i j : Instr) (s : Machine.State),
    (i.isRegroup = true ∧ j.isChecksum = true) ∨ (i.isPacker = true ∧ j.isUnpacker = true) → s.Idle →
    ∃ t t' : Machine.State, issueAll [i, j] s = some t ∧ issueAll [j, i] s = some t' ∧ t.regs = t'.regs

/-- The invariant of R15, R16, R21 and R34 holds after reset. -/
def Obligations.InvariantHoldsAtReset : Prop :=
  Machine.State.reset.Inv

/-- Every step keeps the invariant of R15, R16, R21 and R34: the residues fit their counts, `PCNT` is at most 4, `MATCH` is
never `0b01`, the code 3 is never delivered. -/
def Obligations.EveryStepKeepsTheInvariant : Prop :=
  ∀ s t : Machine.State, s.Inv → step s = .next t → t.Inv

/-- R58, R117: whatever the engine did before, a transaction that starts with `SRST` is a function of its own commands: from
any two idle states it leaves the same registers and appends the same to every port. -/
def Obligations.SrstMakesATransactionForgetThePast : Prop :=
  ∀ commands : List Instr, ∃ (regs : Regs) (items : List Byte) (words : List ReadWord) (codes : List CplCode),
    ∀ s : Machine.State, s.Idle →
      issueAll (.srst :: commands) s = some
        { regs := regs, cmd := [], out := s.out ++ items, rdata := s.rdata ++ words, cpl := s.cpl ++ codes }

/-! ## Checksum -/

/-- R77, written out: shift by 5 with the symbol entering below, then one constant for each set bit of the five that left. -/
def Obligations.PolystepIsTheFeedbackShift : Prop :=
  ∀ (a : AccWord) (v : Sym),
    polystep a v =
      BitVec.ofNat 30 (a.toNat * 32 % 2 ^ 30 + v.toNat) ^^^
      (if a.getLsbD 25 then 0x3b6a57b2 else 0) ^^^
      (if a.getLsbD 26 then 0x26508e6d else 0) ^^^
      (if a.getLsbD 27 then 0x1ea119fa else 0) ^^^
      (if a.getLsbD 28 then 0x3d4233dd else 0) ^^^
      (if a.getLsbD 29 then 0x2a1462b3 else 0)

/-- R89 law 4. -/
def Obligations.PolystepIsLinear : Prop :=
  ∀ (a a' : AccWord) (v v' : Sym), polystep (a ^^^ a') (v ^^^ v') = polystep a v ^^^ polystep a' v'

/-- R78: the folding, that it is idempotent, and that it maps 33 to 126 into itself. -/
def Obligations.FoldLowersLetters : Prop :=
  (∀ c : Byte, (fold c).toNat = if 65 ≤ c.toNat ∧ c.toNat ≤ 90 then c.toNat + 32 else c.toNat) ∧
  (∀ c : Byte, fold (fold c) = fold c) ∧
  (∀ c : Byte, 33 ≤ c.toNat → c.toNat ≤ 126 → 33 ≤ (fold c).toNat ∧ (fold c).toNat ≤ 126)

/-- R87: the transaction `checksum` leaves the polymod of the expanded prefix and the data in `ACC` and emits the document's
checksum (R74); `HRPERR` then tells whether the prefix held a character outside 33 to 126. -/
def Obligations.ChecksumTransactionComputesChecksum : Prop :=
  ∀ (hrp : List Byte) (data : List Sym) (variant : BitVec 1) (s : Machine.State), s.Idle →
    ∃ t : Machine.State, issueAll (checksumCommands hrp data variant) s = some t ∧
      t.out = s.out ++ (checksum hrp data variant).map (·.setWidth 8) ∧ t.rdata = s.rdata ∧
      t.regs = { s.regs with
        acc := polymod (expand hrp ++ data)
        var := variant
        mtch := 0b00
        hrpErr := if hrp.any fun c => c.toNat < 33 || 126 < c.toNat then 1 else 0 }

/-- R88: the transaction `verifyChecksum` delivers `0x2`, `0x3` or `0x0` as the document's function (R75) finds Bech32,
Bech32m or none. -/
def Obligations.VerifyTransactionComputesVerifyChecksum : Prop :=
  ∀ (hrp : List Byte) (data : List Sym) (s : Machine.State), s.Idle →
    ∃ t : Machine.State, issueAll (verifyChecksumCommands hrp data) s = some t ∧ t.out = s.out ∧
      t.rdata = s.rdata ++
        [match verifyChecksum hrp data with
         | none => (0x0 : ReadWord)
         | some v => if v = 0 then 0x2 else 0x3] ∧
      t.regs.acc = polymod (expand hrp ++ data) ∧ t.regs.var = s.regs.var

/-- R89 law 1: absorbing the six symbols `CFIN` emitted, from the accumulator it emitted them from, gives the variant's
constant, and `CVFY` then reports that variant. -/
def Obligations.CreatedChecksumVerifies : Prop :=
  ∀ s : Machine.State, s.Idle →
    ∃ (k : List Sym) (t u : Machine.State), k.length = 6 ∧
      issue .cfin s = some t ∧ t.out = s.out ++ k.map (·.setWidth 8) ∧ t.regs = s.regs ∧
      issueAll (cdata k ++ [.cvfy]) t = some u ∧
      u.regs.acc = (if s.regs.var = 0 then 0x00000001 else 0x2bc830a3) ∧
      u.regs.mtch = if s.regs.var = 0 then 0b10 else 0b11

/-- R89 law 3, R76: absorbing a prefix does not depend on the case of its letters. -/
def Obligations.PrefixCaseDoesNotMatter : Prop :=
  ∀ (hrp : List Byte) (s : Machine.State), s.Idle →
    ∃ t t' t'' : Machine.State, issueAll (chrp hrp) s = some t ∧ issueAll (chrp (lower hrp)) s = some t' ∧
      issueAll (chrp (upper hrp)) s = some t'' ∧ t.regs = t'.regs ∧ t.regs = t''.regs

/-- R89 law 5: two symbol sequences that differ in exactly one position after the expanded prefix do not verify as the same
variant. The document claims it for short strings only and the spec does not derive it (91_not_in_source.md N10); that it
holds at every length is the model's inference from R77 (log entry 9). -/
def Obligations.OneSubstitutedSymbolIsDetected : Prop :=
  ∀ (hrp : List Byte) (before after : List Sym) (x y : Sym) (v : BitVec 1), x ≠ y →
    verifyChecksum hrp (before ++ x :: after) = some v → verifyChecksum hrp (before ++ y :: after) ≠ some v

/-! ## Regrouping -/

/-- R70: the transaction `bytesToBits5` emits the document's function of the bytes (R63), whatever was in the channels. -/
def Obligations.PackerTransactionComputesBytesToBits5 : Prop :=
  ∀ (bytes : List Byte) (s : Machine.State), s.Idle →
    ∃ t : Machine.State, issueAll (bytesToBits5Commands bytes) s = some t ∧
      t.out = s.out ++ (bytesToBits5 bytes).map (·.setWidth 8) ∧ t.rdata = s.rdata ∧
      t.regs = { s.regs with pres := 0, pcnt := 0, ures := 0, ucnt := 0, padErr := 0 }

/-- R71: the transaction `bits5ToBytes` fails, by bit 1 of the word it delivers, exactly when the document's function does
(R64), and otherwise has emitted its bytes. -/
def Obligations.UnpackerTransactionComputesBits5ToBytes : Prop :=
  ∀ (symbols : List Sym) (s : Machine.State), s.Idle →
    ∃ (t : Machine.State) (w : ReadWord) (items : List Byte),
      issueAll (bits5ToBytesCommands symbols) s = some t ∧ t.rdata = s.rdata ++ [w] ∧ t.out = s.out ++ items ∧
      (match bits5ToBytes symbols with
       | some bytes => w.getLsbD 1 = false ∧ items = bytes
       | none => w.getLsbD 1 = true) ∧
      t.regs = { s.regs with pres := 0, pcnt := 0, ures := 0, ucnt := 0, padErr := if w.getLsbD 1 then 1 else 0 }

/-- R72: the lengths, the round trip with the padding it checks, the counts that never come from the packer, and that
`bits5ToBytes` is not injective. -/
def Obligations.RegroupingLaws : Prop :=
  (∀ x : List Byte, 5 * (bytesToBits5 x).length < 8 * x.length + 5 ∧ 8 * x.length ≤ 5 * (bytesToBits5 x).length) ∧
  (∀ (y : List Sym) (x : List Byte), bits5ToBytes y = some x → x.length = 5 * y.length / 8) ∧
  (∀ x : List Byte, bits5ToBytes (bytesToBits5 x) = some x) ∧
  (∀ x : List Byte, (leftover (bytesToBits5 x)) = List.replicate ((5 - 8 * x.length % 5) % 5) false ∧
    (x.length % 5, (bytesToBits5 x).length % 8, (leftover (bytesToBits5 x)).length) ∈
      [(0, 0, 0), (1, 2, 2), (2, 4, 4), (3, 5, 1), (4, 7, 3)]) ∧
  (∀ y : List Sym, y.length % 8 ∈ [1, 3, 6] →
    (∀ x : List Byte, bytesToBits5 x ≠ y) ∧
    (true ∉ leftover y → (bits5ToBytes y).isSome = true)) ∧
  bits5ToBytes [] = some [] ∧ bits5ToBytes [0] = some [] ∧
  bits5ToBytes [0, 0] = some [0x00] ∧ bits5ToBytes [0, 0, 0] = some [0x00]

/-! ## The host's codec over the engine -/

/-- R93, R94: the charset's 32 characters, in the order of their symbols; its inverse; exactly 32 of the 256 codes are
valid, no upper-case letter among them, and of the letters and digits only `1`, `b`, `i`, `o` are missing. -/
def Obligations.CharsetIsABijection : Prop :=
  ((List.range 32).map fun n => Char.ofNat (charOf (BitVec.ofNat 5 n)).toNat) =
    ['q', 'p', 'z', 'r', 'y', '9', 'x', '8', 'g', 'f', '2', 't', 'v', 'd', 'w', '0',
     's', '3', 'j', 'n', '5', '4', 'k', 'h', 'c', 'e', '6', 'm', 'u', 'a', '7', 'l'] ∧
  ((List.range 256).countP fun n => (symOf (BitVec.ofNat 8 n)).isSome) = 32 ∧
  (∀ c : Byte, (97 ≤ c.toNat ∧ c.toNat ≤ 122) ∨ (48 ≤ c.toNat ∧ c.toNat ≤ 57) →
    (symOf c = none ↔ c ∈ [0x31, 0x62, 0x69, 0x6F])) ∧
  (∀ v : Sym, symOf (charOf v) = some v) ∧
  (∀ (c : Byte) (v : Sym), symOf c = some v → charOf v = c) ∧
  (∀ c : Byte, 65 ≤ c.toNat → c.toNat ≤ 90 → symOf c = none)

/-- R100, R99 step 3: the split point is the last separator. -/
def Obligations.SplitIsAtTheLastSeparator : Prop :=
  (∀ str hrp dp : List Byte, splitLast str = some (hrp, dp) ↔ str = hrp ++ [0x31] ++ dp ∧ 0x31 ∉ dp) ∧
  (∀ str : List Byte, splitLast str = none ↔ 0x31 ∉ str)

/-- R98: what `encode` returns over the engine, from any idle state: for a valid prefix (R96) the lower-cased prefix, the
separator, and the payload's and the checksum's symbols through the charset; for any other prefix no result. -/
def Obligations.EncodeReturnsTheEncodedString : Prop :=
  ∀ (hrp payload : List Byte) (variant : BitVec 1) (s : Machine.State), s.Idle →
    (encodeString none hrp payload variant s).map Prod.fst =
      if validHrp hrp then
        some (lower hrp ++ [0x31] ++ (bytesToBits5 payload).map charOf ++
          (checksum hrp (bytesToBits5 payload) variant).map charOf)
      else none

/-- R99: what `decode` returns over the engine for a lower-case string of a valid prefix, any payload symbols and the right
checksum: the prefix, the bytes of the symbols and the variant of the checksum, or no result when the symbols' padding is
bad (R104 properties 5 and 6). -/
def Obligations.DecodeOfAChecksummedString : Prop :=
  ∀ (hrp : List Byte) (d : List Sym) (variant : BitVec 1) (s : Machine.State), s.Idle → validHrp hrp = true →
    (decodeString none (lower hrp ++ [0x31] ++ d.map charOf ++ (checksum hrp d variant).map charOf) s).map Prod.fst =
      (bits5ToBytes d).map fun bytes => ⟨lower hrp, bytes, variant⟩

/-- R99, the other direction: whatever `decode` accepts is, in lower case, a valid prefix, the separator, payload symbols
with good padding and their checksum of the variant it reports. -/
def Obligations.DecodeAcceptsOnlyChecksummedStrings : Prop :=
  ∀ (input : List Byte) (s t : Machine.State) (r : CodecResult), s.Idle → decodeString none input s = some (r, t) →
    mixedCase input = false ∧ validHrp r.hrp = true ∧
    ∃ d : List Sym, bits5ToBytes d = some r.payload ∧
      lower input = r.hrp ++ [0x31] ++ d.map charOf ++ (checksum r.hrp d r.variant).map charOf

/-- R104 property 1: the round trip of the codec, run on one engine from any idle state. -/
def Obligations.DecodeOfEncodeIsThePayload : Prop :=
  ∀ (hrp payload : List Byte) (variant : BitVec 1) (s : Machine.State), s.Idle → validHrp hrp = true →
    ∃ (str : List Byte) (t u : Machine.State), encodeString none hrp payload variant s = some (str, t) ∧
      decodeString none str t = some (⟨lower hrp, payload, variant⟩, u)

/-- R104 properties 2 and 3: `decode` does not depend on the case of a string of one case, and a mixed-case string has no
result. -/
def Obligations.DecodeIgnoresCaseAndRejectsMixedCase : Prop :=
  (∀ (maxLen : Option Nat) (str : List Byte) (s : Machine.State),
    decodeString maxLen (upper str) s = decodeString maxLen (lower str) s ∧
    (mixedCase str = false → decodeString maxLen str s = decodeString maxLen (lower str) s)) ∧
  (∀ (maxLen : Option Nat) (str : List Byte) (s : Machine.State) (a b : Byte),
    a ∈ str → b ∈ str → 65 ≤ a.toNat → a.toNat ≤ 90 → 97 ≤ b.toNat → b.toNat ≤ 122 → decodeString maxLen str s = none)

/-- R97: a cap only turns longer strings into no result, in both directions. -/
def Obligations.LengthCapOnlyRejectsLongerStrings : Prop :=
  (∀ (m : Nat) (hrp payload : List Byte) (variant : BitVec 1) (s : Machine.State),
    encodeString (some m) hrp payload variant s =
      (encodeString none hrp payload variant s).filter fun r => r.1.length ≤ m) ∧
  (∀ (m : Nat) (input : List Byte) (s : Machine.State),
    decodeString (some m) input s = if input.length ≤ m then decodeString none input s else none)

/-- R127: how many commands each transaction is. -/
def Obligations.TransactionsAreLinearInTheirInput : Prop :=
  (∀ (hrp : List Byte) (data : List Sym) (v : BitVec 1),
    (checksumCommands hrp data v).length = 2 * hrp.length + data.length + 4) ∧
  (∀ (hrp : List Byte) (data : List Sym),
    (verifyChecksumCommands hrp data).length = 2 * hrp.length + data.length + 4) ∧
  (∀ bytes : List Byte, (bytesToBits5Commands bytes).length = bytes.length + 2) ∧
  (∀ symbols : List Sym, (bits5ToBytesCommands symbols).length = symbols.length + 3)

/-- R55, R56: lines in the spec's assembler syntax and the words they stand for. That the blank before a comment is dropped
(`RD USTATE # x`) is the model's choice (log entry 8). -/
def Obligations.AssemblerLinesAndTheirWords : Prop :=
  Asm.line ['N', 'O', 'P'] = some [0x0000] ∧
  Asm.line ['C', 'H', 'R', 'P', 'H', ' ', '\'', 'a', '\''] = some [0x6061] ∧
  Asm.line ['P', 'B', '8', ' ', '0', 'x', 'D', 'E'] = some [0xC0DE] ∧
  Asm.line ['C', 'S', 'Y', 'M', ' ', '2', '8'] = some [0x801C] ∧
  Asm.line ['C', 'V', 'S', 'E', 'L', ' ', 'B', 'E', 'C', 'H', '3', '2', 'M'] = some [0x5001] ∧
  Asm.line ['R', 'D', ' ', 'U', 'S', 'T', 'A', 'T', 'E', ' ', '#', ' ', 'x'] = some [0x2005] ∧
  Asm.line ['.', 'w', 'o', 'r', 'd', ' ', '0', 'x', '8', '0', '2', '0'] = some [0x8020] ∧
  Asm.line ['C', 'S', 'E', 'P'] = some [0x8000] ∧
  Asm.line ['C', 'H', 'R', 'P', ' ', '"', 'a', 'b', '"'] = some [0x6061, 0x6062, 0x8000, 0x7061, 0x7062] ∧
  Asm.line ['C', 'D', 'A', 'T', 'A', ' ', '1', ',', ' ', '3', '1'] = some [0x8001, 0x801F]
end

