-- ==== Sys2Proof/Laws/Decode.lean ====
section
/-! SUPPORT. The fields of a command word, and decoding by them. -/

namespace Sys2Proof

@[simp] theorem encodeWord_op (op : BitVec 4) (arg : BitVec 8) : (encodeWord op arg).extractLsb' 12 4 = op := by
  unfold encodeWord
  ext i hi
  have : 12 + i ≥ 8 := by omega
  simp [show 12 + i < 16 by omega, BitVec.getLsbD_of_ge arg (12 + i) this, hi]

@[simp] theorem encodeWord_z (op : BitVec 4) (arg : BitVec 8) : (encodeWord op arg).extractLsb' 8 4 = 0 := by
  unfold encodeWord
  ext i hi
  simp [show 8 + i < 12 by omega]

@[simp] theorem encodeWord_arg (op : BitVec 4) (arg : BitVec 8) : (encodeWord op arg).extractLsb' 0 8 = arg := by
  unfold encodeWord
  ext i hi
  simp [show i < 12 by omega, show i < 16 by omega, hi]

/-- A word with `z = 0` is put together from its opcode and its operand field (R46). -/
theorem encodeWord_of_fields (w : CmdWord) (h : w.extractLsb' 8 4 = 0) :
    encodeWord (w.extractLsb' 12 4) (w.extractLsb' 0 8) = w := by
  unfold encodeWord
  ext i hi
  have hz : ∀ j, j < 4 → w.getLsbD (8 + j) = false := fun j hj => by
    have := congrArg (·.getLsbD j) h
    simpa [hj] using this
  by_cases h8 : i < 8
  · simp [show i < 12 by omega, h8, hi]
  · by_cases h12 : i < 12
    · have := hz (i - 8) (by omega)
      rw [show 8 + (i - 8) = i by omega] at this
      simp [h12, h8, BitVec.getLsbD_eq_getElem hi ▸ this]
    · simp [h12, h8, hi, show 12 + (i - 12) = i by omega, show i - 12 < 4 by omega]

/-- Decoding a word put together from an assigned opcode and an operand field is decoding by the opcode's shape (R50). -/
theorem decode_encodeWord (op : BitVec 4) (arg : BitVec 8) (h : op ≠ 0x3#4) :
    decode (encodeWord op arg) = decodeOp op arg := by
  simp [decode, h]

/-- A reserved bit in `z` under an assigned opcode is a refusal (R52). -/
theorem decode_of_z_ne_zero (w : CmdWord) (hop : w.extractLsb' 12 4 ≠ 0x3#4) (hz : w.extractLsb' 8 4 ≠ 0#4) :
    decode w = .refuse .illFld := by
  simp [decode, hop, hz]

end Sys2Proof
end

