-- ==== Sys2Proof/Laws/State.lean ====
section
/-! SUPPORT. What each named update leaves in each field of the state and of the registers: one lemma per field per update, so
that no later proof unfolds a record update. -/

namespace Sys2Proof.Machine

variable (s : State) (r : Regs)

@[simp] theorem State.emit_regs {n : Nat} (items : List (BitVec n)) : (s.emit items).regs = s.regs := rfl
@[simp] theorem State.emit_cmd {n : Nat} (items : List (BitVec n)) : (s.emit items).cmd = s.cmd := rfl
@[simp] theorem State.emit_out {n : Nat} (items : List (BitVec n)) : (s.emit items).out = s.out ++ items.map (·.setWidth 8) := rfl
@[simp] theorem State.emit_rdata {n : Nat} (items : List (BitVec n)) : (s.emit items).rdata = s.rdata := rfl
@[simp] theorem State.emit_cpl {n : Nat} (items : List (BitVec n)) : (s.emit items).cpl = s.cpl := rfl

@[simp] theorem State.deliver_regs (v : ReadWord) : (s.deliver v).regs = s.regs := rfl
@[simp] theorem State.deliver_cmd (v : ReadWord) : (s.deliver v).cmd = s.cmd := rfl
@[simp] theorem State.deliver_out (v : ReadWord) : (s.deliver v).out = s.out := rfl
@[simp] theorem State.deliver_rdata (v : ReadWord) : (s.deliver v).rdata = s.rdata ++ [v] := rfl
@[simp] theorem State.deliver_cpl (v : ReadWord) : (s.deliver v).cpl = s.cpl := rfl

@[simp] theorem State.complete_regs (c : CplCode) : (s.complete c).regs = s.regs := rfl
@[simp] theorem State.complete_cmd (c : CplCode) : (s.complete c).cmd = s.cmd := rfl
@[simp] theorem State.complete_out (c : CplCode) : (s.complete c).out = s.out := rfl
@[simp] theorem State.complete_rdata (c : CplCode) : (s.complete c).rdata = s.rdata := rfl
@[simp] theorem State.complete_cpl (c : CplCode) : (s.complete c).cpl = s.cpl ++ [c] := rfl

@[simp] theorem State.withRegs_regs (q : Regs) : (s.withRegs q).regs = q := rfl
@[simp] theorem State.withRegs_cmd (q : Regs) : (s.withRegs q).cmd = s.cmd := rfl
@[simp] theorem State.withRegs_out (q : Regs) : (s.withRegs q).out = s.out := rfl
@[simp] theorem State.withRegs_rdata (q : Regs) : (s.withRegs q).rdata = s.rdata := rfl
@[simp] theorem State.withRegs_cpl (q : Regs) : (s.withRegs q).cpl = s.cpl := rfl

@[simp] theorem State.present_regs (w : CmdWord) : (s.present w).regs = s.regs := rfl
@[simp] theorem State.present_cmd (w : CmdWord) : (s.present w).cmd = s.cmd ++ [w] := rfl
@[simp] theorem State.present_out (w : CmdWord) : (s.present w).out = s.out := rfl
@[simp] theorem State.present_rdata (w : CmdWord) : (s.present w).rdata = s.rdata := rfl
@[simp] theorem State.present_cpl (w : CmdWord) : (s.present w).cpl = s.cpl := rfl

@[simp] theorem State.refuse_regs (e : Reject) : (s.refuse e).regs = { s.regs with cmdErr := 1 } := rfl
@[simp] theorem State.refuse_cmd (e : Reject) : (s.refuse e).cmd = s.cmd := rfl
@[simp] theorem State.refuse_out (e : Reject) : (s.refuse e).out = s.out := rfl
@[simp] theorem State.refuse_rdata (e : Reject) : (s.refuse e).rdata = s.rdata := rfl
@[simp] theorem State.refuse_cpl (e : Reject) : (s.refuse e).cpl = s.cpl ++ [e.code] := rfl

@[simp] theorem Regs.absorb_acc (v : Sym) : (r.absorb v).acc = polystep r.acc v := rfl
@[simp] theorem Regs.absorb_var (v : Sym) : (r.absorb v).var = r.var := rfl
@[simp] theorem Regs.absorb_mtch (v : Sym) : (r.absorb v).mtch = r.mtch := rfl
@[simp] theorem Regs.absorb_hrpErr (v : Sym) : (r.absorb v).hrpErr = r.hrpErr := rfl
@[simp] theorem Regs.absorb_padErr (v : Sym) : (r.absorb v).padErr = r.padErr := rfl
@[simp] theorem Regs.absorb_cmdErr (v : Sym) : (r.absorb v).cmdErr = r.cmdErr := rfl
@[simp] theorem Regs.absorb_pres (v : Sym) : (r.absorb v).pres = r.pres := rfl
@[simp] theorem Regs.absorb_pcnt (v : Sym) : (r.absorb v).pcnt = r.pcnt := rfl
@[simp] theorem Regs.absorb_ures (v : Sym) : (r.absorb v).ures = r.ures := rfl
@[simp] theorem Regs.absorb_ucnt (v : Sym) : (r.absorb v).ucnt = r.ucnt := rfl

@[simp] theorem Regs.checkHrp_acc (c : Byte) : (r.checkHrp c).acc = r.acc := rfl
@[simp] theorem Regs.checkHrp_var (c : Byte) : (r.checkHrp c).var = r.var := rfl
@[simp] theorem Regs.checkHrp_mtch (c : Byte) : (r.checkHrp c).mtch = r.mtch := rfl
@[simp] theorem Regs.checkHrp_hrpErr (c : Byte) : (r.checkHrp c).hrpErr = hrpErrAfter r.hrpErr c := rfl
@[simp] theorem Regs.checkHrp_padErr (c : Byte) : (r.checkHrp c).padErr = r.padErr := rfl
@[simp] theorem Regs.checkHrp_cmdErr (c : Byte) : (r.checkHrp c).cmdErr = r.cmdErr := rfl
@[simp] theorem Regs.checkHrp_pres (c : Byte) : (r.checkHrp c).pres = r.pres := rfl
@[simp] theorem Regs.checkHrp_pcnt (c : Byte) : (r.checkHrp c).pcnt = r.pcnt := rfl
@[simp] theorem Regs.checkHrp_ures (c : Byte) : (r.checkHrp c).ures = r.ures := rfl
@[simp] theorem Regs.checkHrp_ucnt (c : Byte) : (r.checkHrp c).ucnt = r.ucnt := rfl

@[simp] theorem Regs.initChecksum_acc : (r.initChecksum).acc = Config.accInit := rfl
@[simp] theorem Regs.initChecksum_var : (r.initChecksum).var = r.var := rfl
@[simp] theorem Regs.initChecksum_mtch : (r.initChecksum).mtch = 0 := rfl
@[simp] theorem Regs.initChecksum_hrpErr : (r.initChecksum).hrpErr = 0 := rfl
@[simp] theorem Regs.initChecksum_padErr : (r.initChecksum).padErr = r.padErr := rfl
@[simp] theorem Regs.initChecksum_cmdErr : (r.initChecksum).cmdErr = r.cmdErr := rfl
@[simp] theorem Regs.initChecksum_pres : (r.initChecksum).pres = r.pres := rfl
@[simp] theorem Regs.initChecksum_pcnt : (r.initChecksum).pcnt = r.pcnt := rfl
@[simp] theorem Regs.initChecksum_ures : (r.initChecksum).ures = r.ures := rfl
@[simp] theorem Regs.initChecksum_ucnt : (r.initChecksum).ucnt = r.ucnt := rfl

@[simp] theorem Regs.selectVariant_acc (v : BitVec 1) : (r.selectVariant v).acc = r.acc := rfl
@[simp] theorem Regs.selectVariant_var (v : BitVec 1) : (r.selectVariant v).var = v := rfl
@[simp] theorem Regs.selectVariant_mtch (v : BitVec 1) : (r.selectVariant v).mtch = r.mtch := rfl
@[simp] theorem Regs.selectVariant_hrpErr (v : BitVec 1) : (r.selectVariant v).hrpErr = r.hrpErr := rfl
@[simp] theorem Regs.selectVariant_padErr (v : BitVec 1) : (r.selectVariant v).padErr = r.padErr := rfl
@[simp] theorem Regs.selectVariant_cmdErr (v : BitVec 1) : (r.selectVariant v).cmdErr = r.cmdErr := rfl
@[simp] theorem Regs.selectVariant_pres (v : BitVec 1) : (r.selectVariant v).pres = r.pres := rfl
@[simp] theorem Regs.selectVariant_pcnt (v : BitVec 1) : (r.selectVariant v).pcnt = r.pcnt := rfl
@[simp] theorem Regs.selectVariant_ures (v : BitVec 1) : (r.selectVariant v).ures = r.ures := rfl
@[simp] theorem Regs.selectVariant_ucnt (v : BitVec 1) : (r.selectVariant v).ucnt = r.ucnt := rfl

@[simp] theorem Regs.verify_acc : (r.verify).acc = r.acc := rfl
@[simp] theorem Regs.verify_var : (r.verify).var = r.var := rfl
@[simp] theorem Regs.verify_mtch : (r.verify).mtch = matchCode r.acc := rfl
@[simp] theorem Regs.verify_hrpErr : (r.verify).hrpErr = r.hrpErr := rfl
@[simp] theorem Regs.verify_padErr : (r.verify).padErr = r.padErr := rfl
@[simp] theorem Regs.verify_cmdErr : (r.verify).cmdErr = r.cmdErr := rfl
@[simp] theorem Regs.verify_pres : (r.verify).pres = r.pres := rfl
@[simp] theorem Regs.verify_pcnt : (r.verify).pcnt = r.pcnt := rfl
@[simp] theorem Regs.verify_ures : (r.verify).ures = r.ures := rfl
@[simp] theorem Regs.verify_ucnt : (r.verify).ucnt = r.ucnt := rfl

@[simp] theorem Regs.pack_acc (b : Byte) : (r.pack b).acc = r.acc := rfl
@[simp] theorem Regs.pack_var (b : Byte) : (r.pack b).var = r.var := rfl
@[simp] theorem Regs.pack_mtch (b : Byte) : (r.pack b).mtch = r.mtch := rfl
@[simp] theorem Regs.pack_hrpErr (b : Byte) : (r.pack b).hrpErr = r.hrpErr := rfl
@[simp] theorem Regs.pack_padErr (b : Byte) : (r.pack b).padErr = r.padErr := rfl
@[simp] theorem Regs.pack_cmdErr (b : Byte) : (r.pack b).cmdErr = r.cmdErr := rfl
@[simp] theorem Regs.pack_pres (b : Byte) : (r.pack b).pres = (lowBits (packBits r.pres b) ((r.pcnt.toNat + 8) % 5)).setWidth 4 := rfl
@[simp] theorem Regs.pack_pcnt (b : Byte) : (r.pack b).pcnt = BitVec.ofNat 3 ((r.pcnt.toNat + 8) % 5) := rfl
@[simp] theorem Regs.pack_ures (b : Byte) : (r.pack b).ures = r.ures := rfl
@[simp] theorem Regs.pack_ucnt (b : Byte) : (r.pack b).ucnt = r.ucnt := rfl

@[simp] theorem Regs.flush_acc : (r.flush).acc = r.acc := rfl
@[simp] theorem Regs.flush_var : (r.flush).var = r.var := rfl
@[simp] theorem Regs.flush_mtch : (r.flush).mtch = r.mtch := rfl
@[simp] theorem Regs.flush_hrpErr : (r.flush).hrpErr = r.hrpErr := rfl
@[simp] theorem Regs.flush_padErr : (r.flush).padErr = r.padErr := rfl
@[simp] theorem Regs.flush_cmdErr : (r.flush).cmdErr = r.cmdErr := rfl
@[simp] theorem Regs.flush_pres : (r.flush).pres = 0 := rfl
@[simp] theorem Regs.flush_pcnt : (r.flush).pcnt = 0 := rfl
@[simp] theorem Regs.flush_ures : (r.flush).ures = r.ures := rfl
@[simp] theorem Regs.flush_ucnt : (r.flush).ucnt = r.ucnt := rfl

@[simp] theorem Regs.unpack_acc (v : Sym) : (r.unpack v).acc = r.acc := rfl
@[simp] theorem Regs.unpack_var (v : Sym) : (r.unpack v).var = r.var := rfl
@[simp] theorem Regs.unpack_mtch (v : Sym) : (r.unpack v).mtch = r.mtch := rfl
@[simp] theorem Regs.unpack_hrpErr (v : Sym) : (r.unpack v).hrpErr = r.hrpErr := rfl
@[simp] theorem Regs.unpack_padErr (v : Sym) : (r.unpack v).padErr = r.padErr := rfl
@[simp] theorem Regs.unpack_cmdErr (v : Sym) : (r.unpack v).cmdErr = r.cmdErr := rfl
@[simp] theorem Regs.unpack_pres (v : Sym) : (r.unpack v).pres = r.pres := rfl
@[simp] theorem Regs.unpack_pcnt (v : Sym) : (r.unpack v).pcnt = r.pcnt := rfl

@[simp] theorem Regs.endUnpack_acc : (r.endUnpack).acc = r.acc := rfl
@[simp] theorem Regs.endUnpack_var : (r.endUnpack).var = r.var := rfl
@[simp] theorem Regs.endUnpack_mtch : (r.endUnpack).mtch = r.mtch := rfl
@[simp] theorem Regs.endUnpack_hrpErr : (r.endUnpack).hrpErr = r.hrpErr := rfl
@[simp] theorem Regs.endUnpack_padErr : (r.endUnpack).padErr = padErrAfter r.padErr r.ures := rfl
@[simp] theorem Regs.endUnpack_cmdErr : (r.endUnpack).cmdErr = r.cmdErr := rfl
@[simp] theorem Regs.endUnpack_pres : (r.endUnpack).pres = r.pres := rfl
@[simp] theorem Regs.endUnpack_pcnt : (r.endUnpack).pcnt = r.pcnt := rfl
@[simp] theorem Regs.endUnpack_ures : (r.endUnpack).ures = 0 := rfl
@[simp] theorem Regs.endUnpack_ucnt : (r.endUnpack).ucnt = 0 := rfl

@[simp] theorem Regs.initRegroup_acc : (r.initRegroup).acc = r.acc := rfl
@[simp] theorem Regs.initRegroup_var : (r.initRegroup).var = r.var := rfl
@[simp] theorem Regs.initRegroup_mtch : (r.initRegroup).mtch = r.mtch := rfl
@[simp] theorem Regs.initRegroup_hrpErr : (r.initRegroup).hrpErr = r.hrpErr := rfl
@[simp] theorem Regs.initRegroup_padErr : (r.initRegroup).padErr = 0 := rfl
@[simp] theorem Regs.initRegroup_cmdErr : (r.initRegroup).cmdErr = r.cmdErr := rfl
@[simp] theorem Regs.initRegroup_pres : (r.initRegroup).pres = 0 := rfl
@[simp] theorem Regs.initRegroup_pcnt : (r.initRegroup).pcnt = 0 := rfl
@[simp] theorem Regs.initRegroup_ures : (r.initRegroup).ures = 0 := rfl
@[simp] theorem Regs.initRegroup_ucnt : (r.initRegroup).ucnt = 0 := rfl

/-- The residue count after `US5`: the bits held, less the 8 of an emitted byte (R68). -/
@[simp] theorem Regs.unpack_ucnt (v : Sym) :
    (r.unpack v).ucnt = BitVec.ofNat 3 (if 8 ≤ r.ucnt.toNat + 5 then r.ucnt.toNat + 5 - 8 else r.ucnt.toNat + 5) := rfl

/-- The residue after `US5`: the low bits of the working value (R68). -/
@[simp] theorem Regs.unpack_ures (v : Sym) :
    (r.unpack v).ures = (lowBits (unpackBits r.ures v)
      (if 8 ≤ r.ucnt.toNat + 5 then r.ucnt.toNat + 5 - 8 else r.ucnt.toNat + 5)).setWidth 7 := rfl

end Sys2Proof.Machine
end

