-- ==== Sys2Proof/Laws/Ops.lean ====
section
/-! SUPPORT. What each shared operation does, once: the lemmas proofs cite instead of unfolding it. -/

namespace Sys2Proof.Machine

/-! ## Completing -/

/-- `done` answers a next state and nothing else. -/
@[simp] theorem done_eq_next_iff (s t : State) : done s = .next t ↔ t = s.complete cplOk := by
  simp [done, eq_comm]

/-! ## Accepting a word -/

@[simp] theorem State.fetch_eq_none_iff (s : State) : s.fetch = none ↔ s.cmd = [] := by
  unfold State.fetch
  split <;> simp_all

/-- Accepting a word takes the oldest one and touches nothing else. -/
theorem State.fetch_eq_some_iff (s t : State) (w : CmdWord) :
    s.fetch = some (w, t) ↔ s.cmd = w :: t.cmd ∧ t = { s with cmd := t.cmd } := by
  unfold State.fetch
  split
  · simp_all
  · rename_i v vs h
    obtain ⟨_, _, _, _, _⟩ := t
    simp only [h, Option.some.injEq, Prod.mk.injEq, State.mk.injEq, List.cons.injEq]
    grind

/-- A word presented to an idle engine is the one it accepts, and the port is then empty again. -/
theorem State.fetch_present_of_idle (s : State) (w : CmdWord) (h : s.cmd = []) :
    (s.present w).fetch = some (w, s) := by
  obtain ⟨_, _, _, _, _⟩ := s
  simp only at h
  subst h
  rfl

/-! ## The checksum step -/

/-- The feedback is an XOR into its start value. -/
theorem feedback_xor (top : BitVec 5) (gs : List AccWord) (i : Nat) (t : AccWord) :
    feedback top gs i t = t ^^^ feedback top gs i 0 := by
  induction gs generalizing i t with
  | nil => simp [feedback]
  | cons g gs ih =>
    simp only [feedback]
    rw [ih, ih (t := if top.getLsbD i then 0 ^^^ g else 0)]
    split <;> simp [BitVec.xor_assoc]

/-- With no bit of `top` set, nothing is fed back. -/
theorem feedback_zero (gs : List AccWord) (i : Nat) (t : AccWord) : feedback 0#5 gs i t = t := by
  induction gs generalizing i t with
  | nil => rfl
  | cons g gs ih => simp [feedback, ih]

@[simp] theorem polysteps_nil (a : AccWord) : polysteps a [] = a := rfl

@[simp] theorem polysteps_cons (a : AccWord) (v : Sym) (vs : List Sym) :
    polysteps a (v :: vs) = polysteps (polystep a v) vs := rfl

/-- Absorbing two sequences is absorbing their concatenation (R79). -/
theorem polysteps_append (a : AccWord) (us vs : List Sym) :
    polysteps a (us ++ vs) = polysteps (polysteps a us) vs := by
  simp [polysteps]

/-- `CFIN` emits six symbols, whatever the accumulator (R32). -/
@[simp] theorem checksumSymbols_length (a : AccWord) (v : BitVec 1) : (checksumSymbols a v).length = 6 := rfl

/-! ## Flags -/

/-- `CVFY` leaves one of the three codes of R21. -/
theorem matchCode_cases (a : AccWord) : matchCode a = 0b00 ∨ matchCode a = 0b10 ∨ matchCode a = 0b11 := by
  unfold matchCode
  split
  · simp
  · split <;> simp

theorem hrpBad_iff (c : Byte) : hrpBad c = true ↔ c.toNat < 33 ∨ 126 < c.toNat := by
  simp [hrpBad, Config.hrpMin, Config.hrpMax, BitVec.lt_def]

/-! ## The residue arithmetic -/

/-- The mask keeps the value modulo `2^n`. -/
theorem lowBits_toNat (acc : BitVec 12) (n : Nat) (hn : n ≤ 11) : (lowBits acc n).toNat = acc.toNat % 2 ^ n := by
  have h : ((1 : BitVec 12) <<< n - 1).toNat = 2 ^ n - 1 := by
    interval_cases n <;> rfl
  rw [lowBits, BitVec.toNat_and, h, Nat.and_two_pow_sub_one_eq_mod]

/-- The packer's working value: the residue, then the byte (R66). -/
theorem packBits_toNat (pres : BitVec 4) (b : Byte) : (packBits pres b).toNat = 256 * pres.toNat + b.toNat := by
  have hp := pres.isLt
  have hb := b.isLt
  have h1 : (pres.setWidth 12 <<< 8).toNat = pres.toNat <<< 8 := by
    simp only [BitVec.toNat_shiftLeft, BitVec.toNat_setWidth, Nat.shiftLeft_eq]
    omega
  rw [packBits, BitVec.toNat_or, h1, BitVec.toNat_setWidth, Nat.mod_eq_of_lt (by omega : b.toNat < 2 ^ 12),
    ← Nat.shiftLeft_add_eq_or_of_lt hb, Nat.shiftLeft_eq]
  omega

/-- The unpacker's working value: the residue, then the symbol (R68). -/
theorem unpackBits_toNat (ures : BitVec 7) (v : Sym) : (unpackBits ures v).toNat = 32 * ures.toNat + v.toNat := by
  have hu := ures.isLt
  have hv := v.isLt
  have h1 : (ures.setWidth 12 <<< 5).toNat = ures.toNat <<< 5 := by
    simp only [BitVec.toNat_shiftLeft, BitVec.toNat_setWidth, Nat.shiftLeft_eq]
    omega
  rw [unpackBits, BitVec.toNat_or, h1, BitVec.toNat_setWidth, Nat.mod_eq_of_lt (by omega : v.toNat < 2 ^ 12),
    ← Nat.shiftLeft_add_eq_or_of_lt hv, Nat.shiftLeft_eq]
  omega

/-- The packer's loop emits `n / 5` groups as long as its rounds last (R66). -/
theorem packGroups_length (acc : BitVec 12) (fuel n : Nat) (h : n < 5 * fuel + 5) :
    (packGroups acc fuel n).length = n / 5 := by
  induction fuel generalizing n with
  | zero => simp only [packGroups, List.length_nil]; omega
  | succ fuel ih =>
    unfold packGroups
    split
    · rw [List.length_cons, ih _ (by omega)]; omega
    · simp only [List.length_nil]; omega

end Sys2Proof.Machine
end

