-- ==== Sys2Proof/Laws/PerInstr.lean ====
section
/-! SUPPORT. The family `TableRow`: a well-formed command's word matches the opcode-map row of its mnemonic (R49). -/

namespace Sys2Proof.Laws.TableRow

/-- The word of a well-formed command matches a row of the opcode map that carries its mnemonic. -/
def Statement (i : Instr) : Prop :=
  i.wellFormed = true → ∃ row ∈ opcodeTable, row.mnemonic = i.mnemonic ∧ row.matches (encode i) = true

theorem nop : Statement .nop := by unfold Statement; decide
theorem srst : Statement .srst := by unfold Statement; decide
theorem rd : ∀ r, Statement (.rd r) := by unfold Statement; decide
theorem cinit : Statement .cinit := by unfold Statement; decide
theorem cvsel : ∀ v, Statement (.cvsel v) := by unfold Statement; decide
theorem cfin : Statement .cfin := by unfold Statement; decide
theorem cvfy : Statement .cvfy := by unfold Statement; decide
theorem rinit : Statement .rinit := by unfold Statement; decide
theorem pfl : Statement .pfl := by unfold Statement; decide
theorem uend : Statement .uend := by unfold Statement; decide
theorem csym : ∀ v, Statement (.csym v) := by unfold Statement; decide
theorem us5 : ∀ v, Statement (.us5 v) := by unfold Statement; decide

theorem chrph (c : Byte) : Statement (.chrph c) := fun _ =>
  ⟨⟨"CHRPH", 0x6000, 0xFF00⟩, by decide, rfl, by revert c; decide⟩

theorem chrpl (c : Byte) : Statement (.chrpl c) := fun _ =>
  ⟨⟨"CHRPL", 0x7000, 0xFF00⟩, by decide, rfl, by revert c; decide⟩

theorem pb8 (b : Byte) : Statement (.pb8 b) := fun _ =>
  ⟨⟨"PB8", 0xC000, 0xFF00⟩, by decide, rfl, by revert b; decide⟩

end Sys2Proof.Laws.TableRow
end

