-- ==== Sys2Proof/Tests/Slice0.lean ====
section
/-! SUPPORT. The model's own tests. Expected values are those of spec/95_test_vectors.md (the section is named) or of the
example in the rule named; and, for each statement with hypotheses, a witness that meets them. -/

namespace Sys2Proof.Machine.Tests

/-- A state with every register at a value other than its reset value (95 section 2.2, first `SRST` row). -/
def busy : State :=
  { State.reset with regs := ⟨0x0A22E419, 1, 0b11, 1, 1, 1, 14, 4, 86, 7⟩ }

/-- The reset state but for the accumulator and the variant. -/
def withAcc (acc : AccWord) (v : BitVec 1) : State :=
  { State.reset with regs := { Regs.reset with acc := acc, var := v } }

/-- The reset state but for the packer. -/
def withP (pres : BitVec 4) (pcnt : BitVec 3) : State :=
  { State.reset with regs := { Regs.reset with pres := pres, pcnt := pcnt } }

/-- The reset state but for the unpacker. -/
def withU (ures : BitVec 7) (ucnt : BitVec 3) : State :=
  { State.reset with regs := { Regs.reset with ures := ures, ucnt := ucnt } }

/-- The state one step after a word is presented. -/
def after (w : CmdWord) (s : State) : Option State :=
  nextState? (step (s.present w))

/-! ## Well-formedness: each check refuses an ill-formed command -/

theorem test_rd_6_is_ill_formed : (Instr.rd 6).wellFormed = false := by decide
theorem test_rd_7_is_ill_formed : (Instr.rd 7).wellFormed = false := by decide
theorem test_rd_5_is_well_formed : (Instr.rd 5).wellFormed = true := by decide

/-! ## Decoding: words written out from R49 and 95 section 2.1 -/

theorem test_decode_nop : decode 0b0000_0000_0000_0000 = .command .nop := by decide
theorem test_decode_srst : decode 0b0001_0000_0000_0000 = .command .srst := by decide
theorem test_decode_rd : decode 0b0010_0000_0000_0101 = .command (.rd 5) := by decide
theorem test_decode_rd_1 : decode 0b0010_0000_0000_0001 = .command (.rd 1) := by decide
theorem test_decode_cinit : decode 0b0100_0000_0000_0000 = .command .cinit := by decide
theorem test_decode_cvsel : decode 0b0101_0000_0000_0001 = .command (.cvsel 1) := by decide
theorem test_decode_chrph : decode 0b0110_0000_0110_0001 = .command (.chrph 97) := by decide
theorem test_decode_chrpl : decode 0b0111_0000_0011_0001 = .command (.chrpl 49) := by decide
theorem test_decode_csym : decode 0b1000_0000_0001_1100 = .command (.csym 28) := by decide
theorem test_decode_cfin : decode 0b1001_0000_0000_0000 = .command .cfin := by decide
theorem test_decode_cvfy : decode 0b1010_0000_0000_0000 = .command .cvfy := by decide
theorem test_decode_rinit : decode 0b1011_0000_0000_0000 = .command .rinit := by decide
theorem test_decode_pb8 : decode 0b1100_0000_1101_1110 = .command (.pb8 0xDE) := by decide
theorem test_decode_pfl : decode 0b1101_0000_0000_0000 = .command .pfl := by decide
theorem test_decode_us5 : decode 0b1110_0000_0001_1011 = .command (.us5 27) := by decide
theorem test_decode_uend : decode 0b1111_0000_0000_0000 = .command .uend := by decide

theorem test_refused_words : [(0x0001 : CmdWord), 0x0100, 0x10FF, 0x2006, 0x2007, 0x2008, 0x5002, 0x6100, 0x8020, 0x80FF,
    0x9001, 0xCF00, 0xE020, 0xF001, 0xFFFF].all (fun w => decode w = .refuse .illFld) = true := by decide
theorem test_unassigned_opcode : [(0x3000 : CmdWord), 0x3ABC, 0x3FFF].all (fun w => decode w = .refuse .illOp) = true := by
  decide

theorem test_table_word : decodeTableWord 16 0xC0DE = some (.pb8 0xDE) := by decide
theorem test_table_word_refused : decodeTableWord 16 0x3000 = none := by decide
theorem test_fetch_word : (State.reset.withFetchWord 16 0x8003).cmd = [0x8003] := by decide

/-! ## One step of each command -/

theorem test_nop : (after 0x0000 busy).map (·.regs) = some busy.regs := by decide
theorem test_srst : (after 0x1000 busy).map (·.regs) = some State.reset.regs := by decide
theorem test_rd_pstate : (after 0x2004 busy).map (·.rdata) = some [0x0000040E] := by decide
theorem test_rd_ustate : (after 0x2005 busy).map (·.rdata) = some [0x00000756] := by decide
theorem test_cinit : (after 0x4000 busy).map (·.regs) = some ⟨0x00000001, 1, 0b00, 0, 1, 1, 14, 4, 86, 7⟩ := by decide
theorem test_cvsel : (after 0x5000 busy).map (·.regs) = some { busy.regs with var := 0 } := by decide
/-- 95 section 2.6: an upper-case `A` absorbs 3, as `a` does. -/
theorem test_chrph_folds : (after 0x6041 State.reset).map (·.regs.acc) = some 0x00000023 := by decide
theorem test_chrph_space : (after 0x6020 (withAcc 0x23 0)).map (fun t => (t.regs.acc, t.regs.hrpErr)) = some (0x461, 1) := by
  decide
theorem test_chrpl : (after 0x7041 (withAcc 0x460 0)).map (fun t => (t.regs.acc, t.regs.hrpErr)) = some (0x8C01, 0) := by
  decide
theorem test_chrpl_above_range : (after 0x707F State.reset).map (·.regs.hrpErr) = some 1 := by decide
/-- 95 section 2.5, `GEN[0] ^ GEN[1] ^ 7`. -/
theorem test_csym_feedback : (after 0x8007 (withAcc 0x06000000 0)).map (·.regs.acc) = some 0x1D3AD9D8 := by decide
theorem test_csym_all_constants : (after 0x801F (withAcc 0x3FFFFFFF 0)).map (·.regs.acc) = some 0x2B326EB4 := by decide
/-- The document's own example, `2uel5l` (95 section 1.1). -/
theorem test_cfin_bech32 : (after 0x9000 (withAcc 0x8C01 0)).map (·.out) = some [10, 28, 25, 31, 20, 31] := by decide
theorem test_cfin_bech32m : (after 0x9000 (withAcc 0x8C01 1)).map (·.out) = some [31, 0, 9, 19, 17, 29] := by decide
theorem test_cvfy_bech32m : (after 0xA000 (withAcc 0x2BC830A3 0)).map (·.regs.mtch) = some 0b11 := by decide
theorem test_cvfy_overwrites : (after 0xA000 busy).map (·.regs.mtch) = some 0b00 := by decide
theorem test_rinit : (after 0xB000 busy).map (·.regs) = some ⟨0x0A22E419, 1, 0b11, 1, 0, 1, 0, 0, 0, 0⟩ := by decide
theorem test_pb8_two_groups : (after 0xC0EF busy).map (fun t => (t.out, t.regs.pres, t.regs.pcnt)) = some ([29, 27], 3, 2) := by
  decide
theorem test_pb8_one_group : (after 0xC0BE (withP 1 1)).map (fun t => (t.out, t.regs.pres, t.regs.pcnt)) = some ([27], 14, 4) := by
  decide
theorem test_pfl_pads : (after 0xD000 (withP 3 2)).map (fun t => (t.out, t.regs.pcnt)) = some ([24], 0) := by decide
theorem test_pfl_zero_bits_are_data : (after 0xD000 (withP 0 3)).map (·.out) = some [0] := by decide
theorem test_us5_emits : (after 0xE01B busy).map (fun t => (t.out, t.regs.ures, t.regs.ucnt)) = some ([173], 11, 4) := by decide
theorem test_us5_holds : (after 0xE016 (withU 2 2)).map (fun t => (t.out, t.regs.ures, t.regs.ucnt)) = some ([], 86, 7) := by
  decide
theorem test_uend_bad_padding : (after 0xF000 (withU 16 5)).map (fun t => (t.regs.padErr, t.regs.ucnt)) = some (1, 0) := by decide
theorem test_uend_zero_leftover : (after 0xF000 (withU 0 7)).map (·.regs.padErr) = some 0 := by decide
/-- 95 program P5 line 4: a refused `CSYM` sets `CMDERR` and absorbs nothing. -/
theorem test_refusal : (after 0x8020 (withAcc 0x23 0)).map (fun t => (t.regs, t.cpl)) =
    some ({ (withAcc 0x23 0).regs with cmdErr := 1 }, [2]) := by decide
theorem test_refusal_of_opcode : (after 0x3FFF State.reset).map (·.cpl) = some [1] := by decide

/-! ## The pure functions -/

theorem test_checksum_a : checksum [0x61] [] 0 = [10, 28, 25, 31, 20, 31] := by decide
theorem test_bytes_to_bits5 : bytesToBits5 [0x12, 0x34, 0x56] = [2, 8, 26, 5, 12] := by decide
theorem test_bits5_to_bytes : bits5ToBytes [0, 16] = some [0x04] := by decide
theorem test_bits5_to_bytes_fails : bits5ToBytes [31, 29] = none := by decide
/-- R104's bad-padding and separator cases stand on these. -/
theorem test_split_last : splitLast [0x31, 0x78, 0x31, 0x71] = some ([0x31, 0x78], [0x71]) := by decide
theorem test_assembler_rejects_rd_6 : Asm.line ['R', 'D', ' ', '6'] = none := by decide
/-- R55's quoted character and comment on one line, in the scanning order of log entry 8. -/
theorem test_assembler_quoted_apostrophe_before_a_comment :
    Asm.line ['C', 'H', 'R', 'P', 'H', ' ', '\'', '\'', '\'', ' ', '#', ' ', 'x'] = some [0x6027] := by decide

/-! ## Witnesses: the hypotheses of each statement can be met -/

theorem witness_ResetAndSrstLeaveSpecifiedValues :
    State.reset.regs = State.reset.regs ∧ (1 : BitVec 3).toNat ≥ 1 ∧ (5 : BitVec 3).toNat ≤ 5 := by decide

theorem witness_StepRunsTheDecodedCommand :
    ({ busy with cmd := [0x801F, 0x0000] } : State).cmd = 0x801F :: [0x0000] ∧ decode 0x801F = .command (.csym 31) ∧
    busy.cmd = [] := by decide

theorem witness_RefusedWordOnlySetsCmderr :
    ({ busy with cmd := [0x3000] } : State).cmd = 0x3000 :: [] ∧ decode 0x3000 = .refuse .illOp ∧
    ({ busy with cmd := [0x8020] } : State).cmd = 0x8020 :: [] ∧ decode 0x8020 = .refuse .illFld := by decide

/-- The second clause of RefusedWordOnlySetsCmderr, for a command that keeps `CMDERR` and for `SRST`. -/
theorem witness_cmderr_persists :
    (∃ t, step { busy with cmd := [0x4000] } = .next t) ∧ (∃ t, step { busy with cmd := [0x1000] } = .next t) ∧
    busy.regs.cmdErr = 1 := ⟨⟨_, rfl⟩, ⟨_, rfl⟩, rfl⟩

theorem witness_EveryWordCompletesWithOneCode : ({ busy with cmd := [0xFFFF] } : State).cmd = 0xFFFF :: [] := by decide

theorem witness_EveryCommandCompletes : (Instr.rd 5).wellFormed = true := by decide

theorem witness_DecodeOfEncodeIsTheCommand : (Instr.rd 5).wellFormed = true ∧ (Instr.csym 31).wellFormed = true := by decide

theorem witness_EncodeOfDecodeIsTheWord : decode 0x2005 = .command (.rd 5) := by decide

/-- For each command of shape N, a word of its opcode that is not its own. -/
theorem witness_refused_words_of_shape_N :
    [((0x0 : BitVec 4), (0x0001 : CmdWord)), (0x1, 0x10FF), (0x4, 0x4100), (0x9, 0x9001), (0xA, 0xA001), (0xB, 0xB100),
     (0xD, 0xD080), (0xF, 0xFFFF)].all (fun p => p.2.extractLsb' 12 4 = p.1 && p.2 ≠ encodeWord p.1 0) = true := by decide

/-- For each command of shape B, a word of its opcode with a bit of `z` set. -/
theorem witness_refused_words_of_shape_B :
    [((0x6 : BitVec 4), (0x6100 : CmdWord)), (0x7, 0x7800), (0xC, 0xCF00)].all
      (fun p => p.2.extractLsb' 12 4 = p.1 && p.2.extractLsb' 8 4 ≠ 0) = true := by decide

/-- For each command of shape S, a word with a bit of `z` set and one with an operand of 32. -/
theorem witness_refused_words_of_shape_S :
    [((0x8 : BitVec 4), (0x8100 : CmdWord), (0x8020 : CmdWord)), (0xE, 0xE100, 0xE020)].all
      (fun p => p.2.1.extractLsb' 12 4 = p.1 && p.2.1.extractLsb' 8 4 ≠ 0 && p.2.2.extractLsb' 12 4 = p.1 &&
        p.2.2.extractLsb' 5 3 ≠ 0) = true := by decide

theorem witness_CvselSelectsTheVariant :
    (0x5100 : CmdWord).extractLsb' 12 4 = 0x5 ∧ (0x5100 : CmdWord).extractLsb' 8 4 ≠ 0 ∧
    (0x5002 : CmdWord).extractLsb' 12 4 = 0x5 ∧ (0x5002 : CmdWord).extractLsb' 1 7 ≠ 0 := by decide

theorem witness_RdDeliversTheRegisterView :
    (5 : BitVec 3).toNat ≤ 5 ∧ [(0x2100 : CmdWord), 0x2008, 0x2006, 0x2007].all (fun w => w.extractLsb' 12 4 = 0x2) = true ∧
    (0x2100 : CmdWord).extractLsb' 8 4 ≠ 0 ∧ (0x2008 : CmdWord).extractLsb' 3 5 ≠ 0 ∧
    (0x2006 : CmdWord).extractLsb' 0 3 = 6 ∧ (0x2007 : CmdWord).extractLsb' 0 3 = 7 := by decide

theorem witness_RdOfUnassignedNumberIsRefused : 5 < (6 : BitVec 3).toNat ∧ 5 < (7 : BitVec 3).toNat := by decide

theorem witness_SrstResetsEveryRegister :
    ∃ a b c, exec .cinit busy = .next a ∧ exec .rinit a = .next b ∧ exec (.cvsel 0) b = .next c :=
  ⟨_, _, _, rfl, rfl, rfl⟩

/-- The last clause of SrstResetsEveryRegister. -/
theorem witness_srst_clears_cmderr : ∃ t, exec .srst busy = .next t ∧ busy.regs.cmdErr = 1 ∧ t.regs.cmdErr = 0 :=
  ⟨_, rfl, rfl, rfl⟩

/-- `PB8`, `PFL`: the packer's invariant, empty and full. -/
theorem witness_PackerOk : (withP 0 0).regs.PackerOk ∧ (withP 15 4).regs.PackerOk := by decide

/-- `US5`: the unpacker's invariant, empty and full. -/
theorem witness_UnpackerOk : (withU 0 0).regs.UnpackerOk ∧ (withU 127 7).regs.UnpackerOk := by decide

theorem witness_ItemsAppendedByEachCommand :
    busy.regs.PackerOk ∧ ({ busy with cmd := [0xC000] } : State).cmd = 0xC000 :: [] ∧
    ∃ t, step { busy with cmd := [0xC000] } = .next t := ⟨by decide, rfl, _, rfl⟩

theorem witness_RdataDeliversOnlyForRd :
    (∃ t, step { busy with cmd := [0x2000] } = .next t) ∧ (∃ t, step { busy with cmd := [0x2006] } = .next t) :=
  ⟨⟨_, rfl⟩, ⟨_, rfl⟩⟩

theorem witness_ReadingTwiceGivesTheSameWord : (5 : BitVec 3).toNat ≤ 5 ∧ busy.Idle := by decide

/-- FlagsChangeOnlyAsTheirRuleSays: a step on a word of each clause, the clauses' premises with it. -/
theorem witness_FlagsChangeOnlyAsTheirRuleSays :
    ([0x4000, 0x1000, 0x6020, 0x707F, 0xB000, 0xF000, 0xA000, 0x3000] : List CmdWord).all
      (fun w => (after w busy).isSome) = true ∧
    ((32 : Byte).toNat < 33 ∧ (0x6020 : CmdWord) = 0x6000 ||| (32 : Byte).setWidth 16) ∧
    (126 < (127 : Byte).toNat ∧ (0x707F : CmdWord) = 0x7000 ||| (127 : Byte).setWidth 16) ∧
    (∀ c : Byte, c.toNat < 33 ∨ 126 < c.toNat →
      (0x607E : CmdWord) ≠ 0x6000 ||| c.setWidth 16 ∧ (0x607E : CmdWord) ≠ 0x7000 ||| c.setWidth 16) ∧
    decode 0x3000 = .refuse .illOp ∧ decode 0x0000 = .command .nop := by decide

theorem witness_CommandsReadAndWriteOnlyTheirColumns :
    (Instr.csym 3).wellFormed = true ∧ (∃ t, exec (.csym 3) busy = .next t) ∧
    (∃ t, exec (.csym 3) (withAcc 0x0A22E419 0) = .next t) ∧
    (∀ c ∈ (Instr.csym 3).reads, busy.regs.column c = (withAcc 0x0A22E419 0).regs.column c) ∧
    Column.var ∉ (Instr.csym 3).writes ∧
    ({ busy with cmd := [0x3000] } : State).cmd = 0x3000 :: [] ∧ decode 0x3000 = .refuse .illOp ∧
    (∃ t, step { busy with cmd := [0x3000] } = .next t) ∧ Column.acc ≠ .cmdErr := ⟨rfl, ⟨_, rfl⟩, ⟨_, rfl⟩, by decide, by decide, rfl, by decide,
      ⟨_, rfl⟩, by decide⟩

theorem witness_UnitsDoNotDisturbEachOther :
    (Instr.isRegroup .rinit = true ∧ Instr.isChecksum (.csym 31) = true) ∧
    (Instr.isPacker (.pb8 255) = true ∧ Instr.isUnpacker .uend = true) ∧ busy.Idle := by decide

theorem witness_EveryStepKeepsTheInvariant :
    State.reset.Inv ∧ busy.Inv ∧ ∃ t, step (busy.present 0xC0FF) = .next t := ⟨by decide, by decide, _, rfl⟩

/-- The statements that ask only for an idle engine: SrstMakesATransactionForgetThePast, the four transactions,
CreatedChecksumVerifies, PrefixCaseDoesNotMatter, EncodeReturnsTheEncodedString. -/
theorem witness_idle : State.reset.Idle ∧ busy.Idle := by decide

theorem witness_FoldLowersLetters : 33 ≤ (33 : Byte).toNat ∧ (126 : Byte).toNat ≤ 126 := by decide

theorem witness_OneSubstitutedSymbolIsDetected :
    (31 : Sym) ≠ 27 ∧ verifyChecksum [0x61] ([10, 28, 25, 31, 20] ++ 31 :: []) = some 0 := by decide

theorem witness_RegroupingLaws :
    bits5ToBytes [31, 28] = some [0xFF] ∧ [0].length % 8 ∈ [1, 3, 6] ∧ true ∉ leftover [0] := by decide

theorem witness_CharsetIsABijection : symOf 0x6C = some 31 ∧ 65 ≤ (65 : Byte).toNat ∧ (90 : Byte).toNat ≤ 90 ∧
    (97 : Byte).toNat = 97 ∧ (122 : Byte).toNat = 122 ∧ (48 : Byte).toNat = 48 ∧ (57 : Byte).toNat = 57 := by decide

theorem witness_DecodeOfAChecksummedString : busy.Idle ∧ validHrp [0x21] = true ∧ validHrp [0x7E] = true := by decide

theorem witness_DecodeAcceptsOnlyChecksummedStrings :
    State.reset.Idle ∧
    ((decodeString none [0x61, 0x31, 0x32, 0x75, 0x65, 0x6C, 0x35, 0x6C] State.reset).map Prod.fst =
      some ⟨[0x61], [], 0⟩) := by decide

theorem witness_DecodeOfEncodeIsThePayload : State.reset.Idle ∧ validHrp [0x61] = true := by decide

theorem witness_DecodeIgnoresCaseAndRejectsMixedCase :
    mixedCase [0x61, 0x31] = false ∧ (0x41 : Byte) ∈ [(0x41 : Byte), 0x7A] ∧ (0x7A : Byte) ∈ [(0x41 : Byte), 0x7A] ∧
    65 ≤ (0x41 : Byte).toNat ∧ (0x41 : Byte).toNat ≤ 90 ∧ 97 ≤ (0x7A : Byte).toNat ∧ (0x7A : Byte).toNat ≤ 122 := by decide

end Sys2Proof.Machine.Tests
end

/-! PROOFS. What one command does, in closed form: the registers it leaves, what it appends to each output port. -/

namespace Sys2Proof

open Machine

/-- The registers a command leaves, as a function of the registers it finds. `RD 6` and `RD 7` are refused. -/
def Instr.regsAfter : Instr → Regs → Regs
  | .nop, q => q
  | .srst, _ => Regs.reset
  | .rd r, q => if r.toNat ≤ 5 then q else { q with cmdErr := 1 }
  | .cinit, q => q.initChecksum
  | .cvsel v, q => q.selectVariant v
  | .chrph c, q => (q.checkHrp c).absorb (hrpHigh c)
  | .chrpl c, q => (q.checkHrp c).absorb (hrpLow c)
  | .csym v, q => q.absorb v
  | .cfin, q => q
  | .cvfy, q => q.verify
  | .rinit, q => q.initRegroup
  | .pb8 b, q => q.pack b
  | .pfl, q => q.flush
  | .us5 v, q => q.unpack v
  | .uend, q => q.endUnpack

/-- The items a command appends to `OUT` (R32). -/
def Instr.items : Instr → Regs → List Byte
  | .cfin, q => (checksumSymbols q.acc q.var).map (·.setWidth 8)
  | .pb8 b, q => (packItems q b).map (·.setWidth 8)
  | .pfl, q => (flushItems q).map (·.setWidth 8)
  | .us5 v, q => (unpackItems q v).map (·.setWidth 8)
  | .nop, _ | .srst, _ | .rd _, _ | .cinit, _ | .cvsel _, _ | .chrph _, _ | .chrpl _, _ | .csym _, _ | .cvfy, _ | .rinit, _
  | .uend, _ => []

/-- The words a command appends to `RDATA` (R33). -/
def Instr.words : Instr → Regs → List ReadWord
  | .rd r, q => (q.view r).toList
  | .nop, _ | .srst, _ | .cinit, _ | .cvsel _, _ | .chrph _, _ | .chrpl _, _ | .csym _, _ | .cfin, _ | .cvfy, _ | .rinit, _
  | .pb8 _, _ | .pfl, _ | .us5 _, _ | .uend, _ => []

/-- The completion code a command delivers (R34, R52). -/
def Instr.code (i : Instr) : CplCode :=
  if i.wellFormed then cplOk else Reject.illFld.code

/-- The state a command leaves: `exec_eq_next` ties it to `exec`. -/
def Instr.after (i : Instr) (s : State) : State where
  regs := i.regsAfter s.regs
  cmd := s.cmd
  out := s.out ++ i.items s.regs
  rdata := s.rdata ++ i.words s.regs
  cpl := s.cpl ++ [i.code]

@[simp] theorem Instr.after_regs (i : Instr) (s : State) : (i.after s).regs = i.regsAfter s.regs := rfl
@[simp] theorem Instr.after_cmd (i : Instr) (s : State) : (i.after s).cmd = s.cmd := rfl
@[simp] theorem Instr.after_out (i : Instr) (s : State) : (i.after s).out = s.out ++ i.items s.regs := rfl
@[simp] theorem Instr.after_rdata (i : Instr) (s : State) : (i.after s).rdata = s.rdata ++ i.words s.regs := rfl
@[simp] theorem Instr.after_cpl (i : Instr) (s : State) : (i.after s).cpl = s.cpl ++ [i.code] := rfl

@[simp] theorem Instr.code_of_wellFormed {i : Instr} (h : i.wellFormed = true) : i.code = 0 := by
  simp [Instr.code, h, cplOk]

/-- The code 3 is never delivered (R34). -/
theorem Instr.code_ne_three (i : Instr) : i.code ≠ 3 := by
  unfold Instr.code
  split <;> decide

end Sys2Proof

namespace Sys2Proof.Machine

/-- A register number has a read view exactly when `RD` of it is well-formed (R23, R52). -/
theorem Regs.view_isSome_iff (q : Regs) (r : BitVec 3) : (q.view r).isSome = true ↔ r.toNat ≤ 5 := by
  have hlt := r.isLt
  interval_cases h : r.toNat <;> simp [Regs.view, h]

/-- `RD` delivers the view if there is one, and is refused if there is none (R59, R52). -/
theorem execRd_eq_next (r : BitVec 3) (s : State) : execRd r s = .next ((Instr.rd r).after s) := by
  have hv := s.regs.view_isSome_iff r
  unfold execRd
  cases h : s.regs.view r with
  | some v =>
    have hr : r.toNat ≤ 5 := by simpa [h] using hv
    simp [done, State.complete, State.deliver, Instr.after, Instr.regsAfter, Instr.items, Instr.words, Instr.code,
      Instr.wellFormed, h, hr]
  | none =>
    have hr : ¬ r.toNat ≤ 5 := by simpa [h] using hv
    simp [State.refuse, State.complete, State.withRegs, Instr.after, Instr.regsAfter, Instr.items, Instr.words, Instr.code,
      Instr.wellFormed, h, hr]

/-- Every command completes, and leaves the state `Instr.after` says (R108): the one lemma proofs cite instead of unfolding
`exec`. -/
theorem exec_eq_next (i : Instr) (s : State) : exec i s = .next (i.after s) := by
  cases i with
  | rd r => exact execRd_eq_next r s
  | _ =>
    simp [exec, execNop, execSrst, execCinit, execCvsel, execChrph, execChrpl, execCsym, execCfin, execCvfy, execRinit,
      execPb8, execPfl, execUs5, execUend, done, State.complete, State.emit, State.withRegs, Instr.after, Instr.regsAfter,
      Instr.items, Instr.words, Instr.code, Instr.wellFormed]

theorem exec_eq_next_iff (i : Instr) (s t : State) : exec i s = .next t ↔ t = i.after s := by
  rw [exec_eq_next, Host.Outcome.next.injEq, eq_comm]

/-! ## One step -/

theorem step_of_cmd_nil {s : State} (h : s.cmd = []) : step s = .next s := by
  simp [step, State.fetch, h]

theorem step_of_command {s : State} {w : CmdWord} {ws : List CmdWord} {i : Instr} (h : s.cmd = w :: ws)
    (hd : decode w = .command i) : step s = .next (i.after { s with cmd := ws }) := by
  simp [step, State.fetch, h, hd, exec_eq_next]

theorem step_of_refuse {s : State} {w : CmdWord} {ws : List CmdWord} {e : Reject} (h : s.cmd = w :: ws)
    (hd : decode w = .refuse e) : step s = .next (State.refuse e { s with cmd := ws }) := by
  simp [step, State.fetch, h, hd]

/-- All that a step on a waiting word can do: execute the command the word spells, or refuse the word (R50, R106). -/
theorem step_cases_of_cmd_cons {s t : State} {w : CmdWord} {ws : List CmdWord} (h : s.cmd = w :: ws) (hs : step s = .next t) :
    (∃ i, decode w = .command i ∧ t = i.after { s with cmd := ws }) ∨
    (∃ e, decode w = .refuse e ∧ t = State.refuse e { s with cmd := ws }) := by
  cases hd : decode w with
  | command i =>
    rw [step_of_command h hd, Host.Outcome.next.injEq] at hs
    exact .inl ⟨i, rfl, hs.symm⟩
  | refuse e =>
    rw [step_of_refuse h hd, Host.Outcome.next.injEq] at hs
    exact .inr ⟨e, rfl, hs.symm⟩

end Sys2Proof.Machine

/-! PROOFS. Decoding and encoding are inverse (R50, R53): a word spells a command exactly when the command is well-formed and
the word is its encoding. -/

namespace Sys2Proof

/-! ## The operand field, by shape -/

/-- An 8-bit field holds a zero-extended operand of `n` bits exactly when its `m` high bits are zero and its `n` low bits are
the operand (R47, R48). -/
theorem eq_setWidth_iff_extractLsb' {n m : Nat} (h : n + m = 8) (arg : BitVec 8) (v : BitVec n) :
    arg = v.setWidth 8 ↔ arg.extractLsb' n m = 0 ∧ arg.extractLsb' 0 n = v := by
  constructor
  · rintro rfl
    constructor <;> ext k hk
    · simp [show n + k < 8 by omega]
    · simp [show k < 8 by omega, hk]
  · rintro ⟨hz, rfl⟩
    ext k hk
    by_cases hn : k < n
    · simp [hn, hk]
    · have hbit := congrArg (·.getLsbD (k - n)) hz
      simpa [hn, show k - n < m by omega, show n + (k - n) = k by omega, hk] using hbit

theorem shapeN_eq_command_iff (j i : Instr) (arg : BitVec 8) : shapeN j arg = .command i ↔ i = j ∧ arg = 0 := by
  unfold shapeN
  by_cases h : arg = 0
  · rw [if_pos h, Decoded.command.injEq]
    simp [h, eq_comm]
  · rw [if_neg h]
    exact iff_of_false (by simp) fun ⟨_, h0⟩ => h h0

theorem shapeB_eq_command_iff (f : Byte → Instr) (arg : BitVec 8) (i : Instr) :
    shapeB f arg = .command i ↔ i = f arg := by
  simp [shapeB, eq_comm]

theorem shapeS_eq_command_iff (f : Sym → Instr) (arg : BitVec 8) (i : Instr) :
    shapeS f arg = .command i ↔ ∃ v, i = f v ∧ arg = v.setWidth 8 := by
  simp only [eq_setWidth_iff_extractLsb' (m := 3) rfl]
  unfold shapeS
  split <;> simp_all [eq_comm]

theorem shapeV_eq_command_iff (f : BitVec 1 → Instr) (arg : BitVec 8) (i : Instr) :
    shapeV f arg = .command i ↔ ∃ v, i = f v ∧ arg = v.setWidth 8 := by
  simp only [eq_setWidth_iff_extractLsb' (m := 7) rfl]
  unfold shapeV
  split <;> simp_all [eq_comm]

theorem shapeR_eq_command_iff (f : BitVec 3 → Instr) (arg : BitVec 8) (i : Instr) :
    shapeR f arg = .command i ↔ ∃ r, i = f r ∧ r.toNat ≤ 5 ∧ arg = r.setWidth 8 := by
  simp only [eq_setWidth_iff_extractLsb' (m := 5) rfl]
  unfold shapeR
  split
  · simp_all [eq_comm, imp_iff_not_or, or_comm]
  · simp_all [eq_comm]

/-! ## Opcode and operand -/

/-- The opcode of a command (R49). -/
def Instr.opcode : Instr → BitVec 4
  | .nop => 0x0 | .srst => 0x1 | .rd _ => 0x2 | .cinit => 0x4 | .cvsel _ => 0x5 | .chrph _ => 0x6 | .chrpl _ => 0x7
  | .csym _ => 0x8 | .cfin => 0x9 | .cvfy => 0xA | .rinit => 0xB | .pb8 _ => 0xC | .pfl => 0xD | .us5 _ => 0xE | .uend => 0xF

/-- The operand field of a command's word (R47, R48). -/
def Instr.arg : Instr → BitVec 8
  | .rd r => r.setWidth 8
  | .cvsel v => v.setWidth 8
  | .chrph c | .chrpl c | .pb8 c => c
  | .csym v | .us5 v => v.setWidth 8
  | .nop | .srst | .cinit | .cfin | .cvfy | .rinit | .pfl | .uend => 0

theorem encode_eq_encodeWord (i : Instr) : encode i = encodeWord i.opcode i.arg := by
  cases i <;> rfl

theorem Instr.opcode_ne_three (i : Instr) : i.opcode ≠ 0x3 := by
  cases i <;> simp [Instr.opcode]

theorem decodeOp_opcode_arg {i : Instr} (h : i.wellFormed = true) : decodeOp i.opcode i.arg = .command i := by
  cases i with
  | chrph c | chrpl c | pb8 c => exact (shapeB_eq_command_iff _ _ _).2 rfl
  | csym v | us5 v => exact (shapeS_eq_command_iff _ _ _).2 ⟨v, rfl, rfl⟩
  | cvsel v => exact (shapeV_eq_command_iff _ _ _).2 ⟨v, rfl, rfl⟩
  | rd r => exact (shapeR_eq_command_iff _ _ _).2 ⟨r, rfl, by simpa [Instr.wellFormed] using h, rfl⟩
  | _ => exact (shapeN_eq_command_iff _ _ _).2 ⟨rfl, rfl⟩

theorem of_decodeOp_eq_command {op : BitVec 4} {arg : BitVec 8} {i : Instr} (h : decodeOp op arg = .command i) :
    i.wellFormed = true ∧ i.opcode = op ∧ i.arg = arg := by
  unfold decodeOp at h
  split at h
  case h_1 hn | h_2 hn | h_4 hn | h_9 hn | h_10 hn | h_11 hn | h_13 hn | h_15 hn =>
    obtain ⟨rfl, rfl⟩ := (shapeN_eq_command_iff _ _ _).1 h
    exact ⟨rfl, BitVec.eq_of_toNat_eq hn.symm, rfl⟩
  case h_6 hn | h_7 hn | h_12 hn =>
    obtain rfl := (shapeB_eq_command_iff _ _ _).1 h
    exact ⟨rfl, BitVec.eq_of_toNat_eq hn.symm, rfl⟩
  case h_8 hn | h_14 hn =>
    obtain ⟨v, rfl, rfl⟩ := (shapeS_eq_command_iff _ _ _).1 h
    exact ⟨rfl, BitVec.eq_of_toNat_eq hn.symm, rfl⟩
  case h_5 hn =>
    obtain ⟨v, rfl, rfl⟩ := (shapeV_eq_command_iff _ _ _).1 h
    exact ⟨rfl, BitVec.eq_of_toNat_eq hn.symm, rfl⟩
  case h_3 hn =>
    obtain ⟨r, rfl, hr, rfl⟩ := (shapeR_eq_command_iff _ _ _).1 h
    exact ⟨decide_eq_true hr, BitVec.eq_of_toNat_eq hn.symm, rfl⟩
  case h_16 => cases h

/-- A word spells a command exactly when the command is well-formed and the word is its encoding (R50, R53). -/
theorem decode_eq_command_iff (w : CmdWord) (i : Instr) :
    decode w = .command i ↔ i.wellFormed = true ∧ encode i = w := by
  constructor
  · intro h
    unfold decode at h
    split at h
    · cases h
    · split at h
      · cases h
      · rename_i hz
        obtain ⟨hwf, hop, harg⟩ := of_decodeOp_eq_command h
        exact ⟨hwf, by rw [encode_eq_encodeWord, hop, harg, encodeWord_of_fields w (not_not.1 hz)]⟩
  · rintro ⟨hwf, rfl⟩
    rw [encode_eq_encodeWord, decode_encodeWord _ _ i.opcode_ne_three, decodeOp_opcode_arg hwf]

/-- The one command a word spells is the one whose encoding it is. -/
theorem eq_encode_iff_of_decode_eq_command {w : CmdWord} {i j : Instr} (h : decode w = .command i)
    (hj : j.wellFormed = true) : w = encode j ↔ i = j := by
  constructor
  · rintro rfl
    rw [(decode_eq_command_iff _ j).2 ⟨hj, rfl⟩, Decoded.command.injEq] at h
    exact h.symm
  · rintro rfl
    exact ((decode_eq_command_iff w i).1 h).2.symm

/-- A refused word is the encoding of no well-formed command. -/
theorem ne_encode_of_decode_eq_refuse {w : CmdWord} {e : Reject} {j : Instr} (h : decode w = .refuse e)
    (hj : j.wellFormed = true) : w ≠ encode j := by
  rintro rfl
  rw [(decode_eq_command_iff _ j).2 ⟨hj, rfl⟩] at h
  cases h

end Sys2Proof

namespace Sys2Proof.Machine

/-! ## Issuing commands to an idle engine -/

/-- An idle engine executes the well-formed command the host issues, and is idle again. -/
theorem issue_of_idle {i : Instr} {s : State} (hi : i.wellFormed = true) (hs : s.Idle) : issue i s = some (i.after s) := by
  have hd : decode (encode i) = .command i := (decode_eq_command_iff _ i).2 ⟨hi, rfl⟩
  have hc : (s.present (encode i)).cmd = [encode i] := by simp [hs]
  rw [issue, step_of_command hc hd, nextState?, ← hs, State.present]

theorem State.Idle.after {s : State} (hs : s.Idle) (i : Instr) : (i.after s).Idle := hs

/-- A sequence of well-formed commands, issued to an idle engine, is their effects one after another. -/
theorem issueAll_of_idle {is : List Instr} {s : State} (hi : ∀ i ∈ is, i.wellFormed = true) (hs : s.Idle) :
    issueAll is s = some (is.foldl (fun t i => i.after t) s) := by
  induction is generalizing s with
  | nil => rfl
  | cons i is ih =>
    rw [issueAll, issue_of_idle (hi i List.mem_cons_self) hs, Option.bind_some,
      ih (fun j hj => hi j (List.mem_cons_of_mem _ hj)) (State.Idle.after hs i), List.foldl_cons]

end Sys2Proof.Machine

/-! PROOFS. The state invariant (R15, R16, R21, R34), at reset and through every step. -/

namespace Sys2Proof.Machine

/-- The packer's residue fits its count after `PB8`, whatever was there (R66). -/
theorem Regs.pack_packerOk (q : Regs) (b : Byte) : (q.pack b).PackerOk := by
  have hn : (q.pcnt.toNat + 8) % 5 < 5 := Nat.mod_lt _ (by decide)
  simp only [Regs.PackerOk, Regs.pack_pcnt, Regs.pack_pres]
  generalize (q.pcnt.toNat + 8) % 5 = n at hn
  have hc : (BitVec.ofNat 3 n).toNat = n := by rw [BitVec.toNat_ofNat]; omega
  rw [hc, BitVec.toNat_setWidth, lowBits_toNat _ _ (by omega)]
  exact ⟨by omega, (Nat.mod_le _ _).trans_lt (Nat.mod_lt _ (Nat.two_pow_pos n))⟩

/-- The unpacker's residue fits its count after `US5`, whatever was there (R68). -/
theorem Regs.unpack_unpackerOk (q : Regs) (v : Sym) : (q.unpack v).UnpackerOk := by
  have hu := q.ucnt.isLt
  have hn : (if 8 ≤ q.ucnt.toNat + 5 then q.ucnt.toNat + 5 - 8 else q.ucnt.toNat + 5) < 8 := by split <;> omega
  simp only [Regs.UnpackerOk, Regs.unpack_ucnt, Regs.unpack_ures]
  generalize (if 8 ≤ q.ucnt.toNat + 5 then q.ucnt.toNat + 5 - 8 else q.ucnt.toNat + 5) = n at hn
  have hc : (BitVec.ofNat 3 n).toNat = n := by rw [BitVec.toNat_ofNat]; omega
  rw [hc, BitVec.toNat_setWidth, lowBits_toNat _ _ (by omega)]
  exact (Nat.mod_le _ _).trans_lt (Nat.mod_lt _ (Nat.two_pow_pos n))

theorem matchCode_ne_one (a : AccWord) : matchCode a ≠ 0b01 := by
  rcases matchCode_cases a with h | h | h <;> rw [h] <;> decide

end Sys2Proof.Machine

namespace Sys2Proof

open Machine

/-- Every command keeps the packer's invariant (R15). -/
theorem Instr.regsAfter_packerOk (i : Instr) {q : Regs} (h : q.PackerOk) : (i.regsAfter q).PackerOk := by
  cases i with
  | pb8 b => exact q.pack_packerOk b
  | srst | rinit | pfl => exact ⟨Nat.zero_le _, Nat.one_pos⟩
  | rd r => simp only [Instr.regsAfter]; split <;> exact h
  | _ => exact h

/-- Every command keeps the unpacker's invariant (R16). -/
theorem Instr.regsAfter_unpackerOk (i : Instr) {q : Regs} (h : q.UnpackerOk) : (i.regsAfter q).UnpackerOk := by
  cases i with
  | us5 v => exact q.unpack_unpackerOk v
  | srst | rinit | uend => exact Nat.one_pos
  | rd r => simp only [Instr.regsAfter]; split <;> exact h
  | _ => exact h

/-- Every command keeps `MATCH` one of its three codes (R21). -/
theorem Instr.regsAfter_matchOk (i : Instr) {q : Regs} (h : q.MatchOk) : (i.regsAfter q).MatchOk := by
  cases i with
  | cvfy => exact matchCode_ne_one q.acc
  | srst | cinit => exact (by decide : (0 : BitVec 2) ≠ 0b01)
  | rd r => simp only [Instr.regsAfter]; split <;> exact h
  | _ => exact h

theorem Reject.code_ne_three (e : Reject) : e.code ≠ 3 := by
  cases e <;> decide

end Sys2Proof

namespace Sys2Proof.Machine

theorem State.Inv.after {s : State} (h : s.Inv) (i : Instr) : (i.after s).Inv := by
  obtain ⟨hp, hu, hm, hc⟩ := h
  refine ⟨i.regsAfter_packerOk hp, i.regsAfter_unpackerOk hu, i.regsAfter_matchOk hm, ?_⟩
  simpa [or_imp, forall_and] using ⟨hc, i.code_ne_three⟩

theorem State.Inv.refuse {s : State} (h : s.Inv) (e : Reject) : (s.refuse e).Inv := by
  obtain ⟨hp, hu, hm, hc⟩ := h
  refine ⟨hp, hu, hm, ?_⟩
  simpa [or_imp, forall_and] using ⟨hc, e.code_ne_three⟩

/-- Settles O37: the invariant does not speak of `CMD`, and both outcomes of accepting a word keep it. -/
theorem everyStepKeepsTheInvariant : Obligations.EveryStepKeepsTheInvariant := by
  intro s t h hs
  cases hc : s.cmd with
  | nil =>
    rw [step_of_cmd_nil hc, Host.Outcome.next.injEq] at hs
    exact hs ▸ h
  | cons w ws =>
    have h' : State.Inv { s with cmd := ws } := h
    obtain ⟨i, -, rfl⟩ | ⟨e, -, rfl⟩ := step_cases_of_cmd_cons hc hs
    · exact h'.after i
    · exact h'.refuse e

/-- Settles O36: at reset everything the invariant speaks of is zero or empty. -/
theorem invariantHoldsAtReset : Obligations.InvariantHoldsAtReset := by
  unfold Obligations.InvariantHoldsAtReset
  decide

end Sys2Proof.Machine

/-! PROOFS. The sticky flags and `MATCH` (R19): what each command leaves in them, and what each word does. -/

namespace Sys2Proof

open Machine

/-! ## By command -/

/-- `CINIT` and `SRST` clear `HRPERR`. -/
theorem Instr.regsAfter_hrpErr_of_clear {i : Instr} (h : i = .cinit ∨ i = .srst) (q : Regs) :
    (i.regsAfter q).hrpErr = 0 := by
  obtain rfl | rfl := h <;> rfl

/-- `CHRPH` or `CHRPL` of a character out of range sets `HRPERR`. -/
theorem Instr.regsAfter_hrpErr_of_bad {i : Instr} {c : Byte} (hc : c.toNat < 33 ∨ 126 < c.toNat)
    (h : i = .chrph c ∨ i = .chrpl c) (q : Regs) : (i.regsAfter q).hrpErr = 1 := by
  have hb : hrpErrAfter q.hrpErr c = 1 := by rw [hrpErrAfter, if_pos ((hrpBad_iff c).2 hc)]
  obtain rfl | rfl := h <;> exact hb

/-- Nothing else changes `HRPERR`. -/
theorem Instr.regsAfter_hrpErr_of_not {i : Instr} (h1 : i ≠ .cinit) (h2 : i ≠ .srst)
    (h3 : ∀ c : Byte, c.toNat < 33 ∨ 126 < c.toNat → i ≠ .chrph c ∧ i ≠ .chrpl c) (q : Regs) :
    (i.regsAfter q).hrpErr = q.hrpErr := by
  cases i with
  | cinit => exact absurd rfl h1
  | srst => exact absurd rfl h2
  | chrph c =>
    have hc : ¬ hrpBad c = true := fun hb => (h3 c ((hrpBad_iff c).1 hb)).1 rfl
    exact if_neg hc
  | chrpl c =>
    have hc : ¬ hrpBad c = true := fun hb => (h3 c ((hrpBad_iff c).1 hb)).2 rfl
    exact if_neg hc
  | rd r => simp only [Instr.regsAfter]; split <;> rfl
  | _ => rfl

theorem Instr.regsAfter_padErr (i : Instr) (q : Regs) :
    (i.regsAfter q).padErr =
      if i = .rinit ∨ i = .srst then 0 else if i = .uend ∧ q.ures ≠ 0 then 1 else q.padErr := by
  cases i with
  | rd r => simp only [Instr.regsAfter]; split <;> simp
  | _ => simp [Instr.regsAfter, padErrAfter, Regs.reset]

theorem Instr.regsAfter_mtch (i : Instr) (q : Regs) :
    (i.regsAfter q).mtch =
      if i = .cinit ∨ i = .srst then 0b00 else if i = .cvfy then matchCode q.acc else q.mtch := by
  cases i with
  | rd r => simp only [Instr.regsAfter]; split <;> simp
  | _ => simp [Instr.regsAfter, Regs.reset]

/-- `SRST` clears `CMDERR`, and no other well-formed command changes it. -/
theorem Instr.regsAfter_cmdErr {i : Instr} (h : i.wellFormed = true) (q : Regs) :
    (i.regsAfter q).cmdErr = if i = .srst then 0 else q.cmdErr := by
  cases i with
  | rd r => simp [Instr.regsAfter, of_decide_eq_true h]
  | _ => simp [Instr.regsAfter, Regs.reset]

/-! ## By word -/

theorem encode_chrph (c : Byte) : encode (.chrph c) = 0x6000 ||| c.setWidth 16 := rfl

theorem encode_chrpl (c : Byte) : encode (.chrpl c) = 0x7000 ||| c.setWidth 16 := rfl

end Sys2Proof

namespace Sys2Proof.Machine

/-- Settles O33: the words of R19 are the encodings of its commands, and a refused word is none of them. -/
theorem flagsChangeOnlyAsTheirRuleSays : Obligations.FlagsChangeOnlyAsTheirRuleSays := by
  intro s t w ws hw hs
  rw [show (0x4000 : CmdWord) = encode .cinit from rfl, show (0x1000 : CmdWord) = encode .srst from rfl,
    show (0xB000 : CmdWord) = encode .rinit from rfl, show (0xF000 : CmdWord) = encode .uend from rfl,
    show (0xA000 : CmdWord) = encode .cvfy from rfl]
  simp only [← encode_chrph, ← encode_chrpl, ne_eq]
  obtain ⟨i, hd, rfl⟩ | ⟨e, hd, rfl⟩ := step_cases_of_cmd_cons hw hs
  · have hi : i.wellFormed = true := ((decode_eq_command_iff w i).1 hd).1
    have hword (j : Instr) (hj : j.wellFormed = true) : w = encode j ↔ i = j := eq_encode_iff_of_decode_eq_command hd hj
    simp only [hword .cinit rfl, hword .srst rfl, hword .rinit rfl, hword .uend rfl, hword .cvfy rfl,
      fun c => hword (.chrph c) rfl, fun c => hword (.chrpl c) rfl]
    refine ⟨fun h => i.regsAfter_hrpErr_of_clear h _, fun c hc h => i.regsAfter_hrpErr_of_bad hc h _,
      fun h1 h2 h3 => i.regsAfter_hrpErr_of_not h1 h2 h3 _, i.regsAfter_padErr _,
      fun h => ?_, fun r hr => ?_, fun _ _ h => ?_, i.regsAfter_mtch _⟩
    · rw [Instr.after_regs, Instr.regsAfter_cmdErr hi, if_pos h]
    · exact absurd (hd.symm.trans hr) (by simp)
    · rw [Instr.after_regs, Instr.regsAfter_cmdErr hi, if_neg h]
  · have hword (j : Instr) (hj : j.wellFormed = true) : w ≠ encode j := ne_encode_of_decode_eq_refuse hd hj
    simp [hword .cinit rfl, hword .srst rfl, hword .rinit rfl, hword .uend rfl, hword .cvfy rfl,
      fun c => hword (.chrph c) rfl, fun c => hword (.chrpl c) rfl, hd]

end Sys2Proof.Machine

/-! PROOFS. The write matrix (R25): which columns each command writes and reads. -/

namespace Sys2Proof.Machine

/-! ## Columns -/

section
variable (q q' : Regs)

@[simp] theorem Regs.column_acc_inj : q.column .acc = q'.column .acc ↔ q.acc = q'.acc := BitVec.toNat_inj
@[simp] theorem Regs.column_var_inj : q.column .var = q'.column .var ↔ q.var = q'.var := BitVec.toNat_inj
@[simp] theorem Regs.column_mtch_inj : q.column .mtch = q'.column .mtch ↔ q.mtch = q'.mtch := BitVec.toNat_inj
@[simp] theorem Regs.column_hrpErr_inj : q.column .hrpErr = q'.column .hrpErr ↔ q.hrpErr = q'.hrpErr := BitVec.toNat_inj
@[simp] theorem Regs.column_padErr_inj : q.column .padErr = q'.column .padErr ↔ q.padErr = q'.padErr := BitVec.toNat_inj
@[simp] theorem Regs.column_cmdErr_inj : q.column .cmdErr = q'.column .cmdErr ↔ q.cmdErr = q'.cmdErr := BitVec.toNat_inj

/-- The packer's column tells its count and its residue apart, since the residue is below 16. -/
@[simp] theorem Regs.column_packer_inj :
    q.column .packer = q'.column .packer ↔ q.pcnt = q'.pcnt ∧ q.pres = q'.pres := by
  have h := q.pres.isLt
  have h' := q'.pres.isLt
  simp only [Regs.column, ← BitVec.toNat_inj]
  omega

/-- The unpacker's column tells its count and its residue apart, since the residue is below 128. -/
@[simp] theorem Regs.column_unpacker_inj :
    q.column .unpacker = q'.column .unpacker ↔ q.ucnt = q'.ucnt ∧ q.ures = q'.ures := by
  have h := q.ures.isLt
  have h' := q'.ures.isLt
  simp only [Regs.column, ← BitVec.toNat_inj]
  omega

end

/-- The eight columns are all the registers. -/
theorem Regs.eq_of_column_eq {q q' : Regs} (h : ∀ c, q.column c = q'.column c) : q = q' := by
  have hp := (q.column_packer_inj q').1 (h .packer)
  have hu := (q.column_unpacker_inj q').1 (h .unpacker)
  rw [Regs.mk.injEq]
  exact ⟨(q.column_acc_inj q').1 (h _), (q.column_var_inj q').1 (h _), (q.column_mtch_inj q').1 (h _),
    (q.column_hrpErr_inj q').1 (h _), (q.column_padErr_inj q').1 (h _), (q.column_cmdErr_inj q').1 (h _),
    hp.2, hp.1, hu.2, hu.1⟩

/-! ## What depends on the columns read -/

/-- The read view of a register number depends on the columns `RD`'s row marks `r` only (R25, R23). -/
theorem Regs.view_congr {q q' : Regs} (r : BitVec 3) (h : ∀ c ∈ (Instr.rd r).reads, q.column c = q'.column c) :
    q.view r = q'.view r := by
  have hr : r = 0 ∨ r = 1 ∨ r = 2 ∨ r = 3 ∨ r = 4 ∨ r = 5 ∨ 5 < r.toNat := by bv_omega
  rcases hr with rfl | rfl | rfl | rfl | rfl | rfl | hr
  case inr.inr.inr.inr.inr.inr =>
    have hnone (p : Regs) : p.view r = none := by
      simpa [← Option.not_isSome_iff_eq_none, Regs.view_isSome_iff] using hr
    rw [hnone, hnone]
  all_goals simp_all [Instr.reads, Regs.view, Regs.status, Regs.pstate, Regs.ustate]

/-- A sticky flag that a condition sets is the same whatever it was, or is what it was. -/
theorem sticky_congr (p : Prop) [Decidable p] (old old' : BitVec 1) :
    (if p then 1 else old) = (if p then 1 else old') ∨
    ((if p then 1 else old) = old ∧ (if p then 1 else old') = old') := by
  split <;> simp

end Sys2Proof.Machine

namespace Sys2Proof

open Machine

/-! ## Writes -/

/-- A well-formed command leaves the columns its row does not mark `w` (R25). -/
theorem Instr.regsAfter_column_of_not_mem_writes {i : Instr} (hi : i.wellFormed = true) (q : Regs) {c : Column}
    (hc : c ∉ i.writes) : (i.regsAfter q).column c = q.column c := by
  cases i with
  | rd r => rw [Instr.regsAfter, if_pos (of_decide_eq_true hi)]
  | srst => cases c <;> simp [Instr.writes] at hc
  | _ => cases c <;> simp_all [Instr.writes, Instr.regsAfter]

/-! ## Reads -/

/-- What a command appends to `OUT` depends on the columns its row marks `r` only. -/
theorem Instr.items_congr (i : Instr) {q q' : Regs} (h : ∀ c ∈ i.reads, q.column c = q'.column c) :
    i.items q = i.items q' := by
  cases i <;> simp_all [Instr.reads, Instr.items, packItems, flushItems, unpackItems]

/-- What a command appends to `RDATA` depends on the columns its row marks `r` only. -/
theorem Instr.words_congr (i : Instr) {q q' : Regs} (h : ∀ c ∈ i.reads, q.column c = q'.column c) :
    i.words q = i.words q' := by
  cases i with
  | rd r => rw [Instr.words, Instr.words, Regs.view_congr r h]
  | _ => rfl

/-- What a command leaves in a column its row marks `w` depends on the columns the row marks `r` only, or is what was there
(R25): the latter is the case of a sticky flag that the command does not set. -/
theorem Instr.regsAfter_column_congr {i : Instr} {q q' : Regs} (h : ∀ c ∈ i.reads, q.column c = q'.column c)
    {c : Column} (hc : c ∈ i.writes) :
    (i.regsAfter q).column c = (i.regsAfter q').column c ∨
    ((i.regsAfter q).column c = q.column c ∧ (i.regsAfter q').column c = q'.column c) := by
  cases i with
  | chrph d | chrpl d =>
    obtain rfl | rfl : c = .acc ∨ c = .hrpErr := by simpa [Instr.writes] using hc
    · simp_all [Instr.reads, Instr.regsAfter]
    · simpa [Instr.regsAfter, hrpErrAfter] using sticky_congr (hrpBad d = true) q.hrpErr q'.hrpErr
  | uend =>
    have hu : q.ures = q'.ures := by simp_all [Instr.reads]
    obtain rfl | rfl : c = .padErr ∨ c = .unpacker := by simpa [Instr.writes] using hc
    · simpa [Instr.regsAfter, padErrAfter, hu] using sticky_congr (q'.ures ≠ 0) q.padErr q'.padErr
    · simp [Instr.regsAfter]
  | srst => exact .inl rfl
  | nop | rd _ | cfin => simp [Instr.writes] at hc
  | _ =>
    left
    cases c <;> simp_all [Instr.writes, Instr.reads, Instr.regsAfter]

end Sys2Proof

namespace Sys2Proof.Machine

/-- Settles O34, by the frame and the dependence lemmas of `Instr.after`'s parts. -/
theorem commandsReadAndWriteOnlyTheirColumns : Obligations.CommandsReadAndWriteOnlyTheirColumns := by
  constructor
  · intro i s s' t t' hi ht ht'
    rw [exec_eq_next_iff] at ht ht'
    subst ht ht'
    refine ⟨fun c hc => Instr.regsAfter_column_of_not_mem_writes hi _ hc, fun h =>
      ⟨⟨i.items s.regs, i.words s.regs, rfl, ?_, rfl, ?_⟩, fun c hc => Instr.regsAfter_column_congr h hc⟩⟩
    · rw [Instr.after_out, i.items_congr h]
    · rw [Instr.after_rdata, i.words_congr h]
  · intro s t w ws e hw hd hs c hc
    rw [step_of_refuse hw hd, Host.Outcome.next.injEq] at hs
    subst hs
    cases c <;> simp_all

end Sys2Proof.Machine

/-! PROOFS. Commands that keep off each other's columns commute; so do the units (R17). -/

namespace Sys2Proof

open Machine

/-- A command writes no column that another one reads or writes, by the write matrix (R25). -/
def Instr.KeepsOff (i j : Instr) : Prop :=
  ∀ c ∈ i.writes, c ∉ j.reads ∧ c ∉ j.writes

/-- A command after one that keeps off its columns leaves in a column it writes what it leaves there alone. -/
theorem Instr.KeepsOff.regsAfter_column {i j : Instr} (hij : i.KeepsOff j) (hi : i.wellFormed = true) (q : Regs) {c : Column}
    (hc : c ∈ j.writes) : (j.regsAfter (i.regsAfter q)).column c = (j.regsAfter q).column c := by
  have hframe {d : Column} (hd : d ∉ i.writes) : (i.regsAfter q).column d = q.column d :=
    Instr.regsAfter_column_of_not_mem_writes hi q hd
  have hreads : ∀ d ∈ j.reads, (i.regsAfter q).column d = q.column d := fun d hd =>
    hframe fun hw => (hij d hw).1 hd
  obtain h | ⟨h, h'⟩ := Instr.regsAfter_column_congr hreads hc
  · exact h
  · rw [h, h', hframe fun hw => (hij c hw).2 hc]

/-- Two commands that keep off each other's columns leave the same registers in either order. -/
theorem Instr.regsAfter_comm {i j : Instr} (hi : i.wellFormed = true) (hj : j.wellFormed = true) (hij : i.KeepsOff j)
    (hji : j.KeepsOff i) (q : Regs) : j.regsAfter (i.regsAfter q) = i.regsAfter (j.regsAfter q) := by
  apply Regs.eq_of_column_eq
  intro c
  by_cases hcj : c ∈ j.writes
  · have hci : c ∉ i.writes := fun hw => (hij c hw).2 hcj
    rw [hij.regsAfter_column hi q hcj, Instr.regsAfter_column_of_not_mem_writes hi _ hci]
  · rw [Instr.regsAfter_column_of_not_mem_writes hj _ hcj]
    by_cases hci : c ∈ i.writes
    · rw [hji.regsAfter_column hj q hci]
    · rw [Instr.regsAfter_column_of_not_mem_writes hi _ hci, Instr.regsAfter_column_of_not_mem_writes hi _ hci,
        Instr.regsAfter_column_of_not_mem_writes hj _ hcj]

/-! ## The columns of each unit (R17) -/

theorem Instr.columns_of_isChecksum {i : Instr} (h : i.isChecksum = true) :
    i.reads ++ i.writes ⊆ [.acc, .var, .mtch, .hrpErr] := by
  cases i <;> simp_all [Instr.isChecksum, Instr.reads, Instr.writes]

theorem Instr.columns_of_isPacker {i : Instr} (h : i.isPacker = true) : i.reads ++ i.writes ⊆ [.packer] := by
  cases i <;> simp_all [Instr.isPacker, Instr.reads, Instr.writes]

theorem Instr.columns_of_isUnpacker {i : Instr} (h : i.isUnpacker = true) :
    i.reads ++ i.writes ⊆ [.padErr, .unpacker] := by
  cases i <;> simp_all [Instr.isUnpacker, Instr.reads, Instr.writes]

theorem Instr.columns_of_isRegroup {i : Instr} (h : i.isRegroup = true) :
    i.reads ++ i.writes ⊆ [.padErr, .packer, .unpacker] := by
  cases i <;> simp_all [Instr.isRegroup, Instr.isPacker, Instr.isUnpacker, Instr.reads, Instr.writes]

/-- Commands whose columns lie in disjoint lists keep off each other's. -/
theorem Instr.keepsOff_of_disjoint {i j : Instr} {cs ds : List Column} (hi : i.reads ++ i.writes ⊆ cs)
    (hj : j.reads ++ j.writes ⊆ ds) (h : cs.Disjoint ds) : i.KeepsOff j := by
  intro c hc
  have hcs : c ∈ cs := hi (List.mem_append_right _ hc)
  exact ⟨fun hd => h hcs (hj (List.mem_append_left _ hd)), fun hd => h hcs (hj (List.mem_append_right _ hd))⟩

/-- Of a regrouping and a checksum command, or of a packer and an unpacker command, each keeps off the other's columns. -/
theorem Instr.keepsOff_of_units {i j : Instr}
    (h : (i.isRegroup = true ∧ j.isChecksum = true) ∨ (i.isPacker = true ∧ j.isUnpacker = true)) :
    i.KeepsOff j ∧ j.KeepsOff i := by
  obtain ⟨hi, hj⟩ | ⟨hi, hj⟩ := h
  · have hd : List.Disjoint [Column.padErr, .packer, .unpacker] [.acc, .var, .mtch, .hrpErr] := by simp
    exact ⟨Instr.keepsOff_of_disjoint (columns_of_isRegroup hi) (columns_of_isChecksum hj) hd,
      Instr.keepsOff_of_disjoint (columns_of_isChecksum hj) (columns_of_isRegroup hi) hd.symm⟩
  · have hd : List.Disjoint [Column.packer] [.padErr, .unpacker] := by simp
    exact ⟨Instr.keepsOff_of_disjoint (columns_of_isPacker hi) (columns_of_isUnpacker hj) hd,
      Instr.keepsOff_of_disjoint (columns_of_isUnpacker hj) (columns_of_isPacker hi) hd.symm⟩

/-! ## The units' commands are well-formed: only `RD` can be ill-formed (R52) -/

theorem Instr.wellFormed_of_isChecksum {i : Instr} (h : i.isChecksum = true) : i.wellFormed = true := by
  cases i with
  | rd r => cases h
  | _ => rfl

theorem Instr.wellFormed_of_isRegroup {i : Instr} (h : i.isRegroup = true) : i.wellFormed = true := by
  cases i with
  | rd r => simp [Instr.isRegroup, Instr.isPacker, Instr.isUnpacker] at h
  | _ => rfl

theorem Instr.wellFormed_of_units {i j : Instr}
    (h : (i.isRegroup = true ∧ j.isChecksum = true) ∨ (i.isPacker = true ∧ j.isUnpacker = true)) :
    i.wellFormed = true ∧ j.wellFormed = true := by
  obtain ⟨hi, hj⟩ | ⟨hi, hj⟩ := h
  · exact ⟨wellFormed_of_isRegroup hi, wellFormed_of_isChecksum hj⟩
  · exact ⟨wellFormed_of_isRegroup (by simp [Instr.isRegroup, hi]), wellFormed_of_isRegroup (by simp [Instr.isRegroup, hj])⟩

end Sys2Proof

namespace Sys2Proof.Machine

/-- Settles O35: the two commands keep off each other's columns. -/
theorem unitsDoNotDisturbEachOther : Obligations.UnitsDoNotDisturbEachOther := by
  intro i j s h hs
  obtain ⟨hi, hj⟩ := Instr.wellFormed_of_units h
  obtain ⟨hij, hji⟩ := Instr.keepsOff_of_units h
  exact ⟨_, _, issueAll_of_idle (by simp [hi, hj]) hs, issueAll_of_idle (by simp [hi, hj]) hs,
    Instr.regsAfter_comm hi hj hij hji s.regs⟩

end Sys2Proof.Machine

/-! PROOFS. Reset values (R26). -/

namespace Sys2Proof.Machine

/-- The read views of the reset values: 1 under number 0, else 0 (R26, R23). -/
theorem Regs.view_reset (r : BitVec 3) (h : r.toNat ≤ 5) : Regs.reset.view r = some (if r = 0 then 1 else 0) := by
  revert r
  decide

/-- Settles O1, the read views by `Regs.view_reset`. -/
theorem resetAndSrstLeaveSpecifiedValues : Obligations.ResetAndSrstLeaveSpecifiedValues := by
  have hrd (s : State) (hs : s.regs = Regs.reset) (r : BitVec 3) (hr : r.toNat ≤ 5) :
      exec (.rd r) s = .next { s with rdata := s.rdata ++ [if r = 0 then 1 else 0], cpl := s.cpl ++ [0] } := by
    have hwf : (Instr.rd r).wellFormed = true := decide_eq_true hr
    simp [exec_eq_next, Instr.after, Instr.regsAfter, Instr.items, Instr.words, hs, hr, hwf, Regs.view_reset]
  refine ⟨rfl, fun s => ?_, fun s hs => ⟨hrd s hs 0 (by decide), fun r h1 h5 => ?_⟩⟩
  · simp [exec_eq_next, Instr.after, Instr.regsAfter, Instr.items, Instr.words, Instr.code, Instr.wellFormed, cplOk,
      Regs.reset, Config.accInit]
  · have h0 : r ≠ 0 := by bv_omega
    rw [hrd s hs r h5, if_neg h0]

end Sys2Proof.Machine

/-! PROOFS. What every presented word does to the ports (spec/20_memory.md): it leaves `CMD` and gets one completion code
(R30, R34), and it appends to `OUT` and `RDATA` what its command calls for (R32, R33). -/

namespace Sys2Proof

open Machine

/-! ## The completion code of a word -/

/-- The completion code a word's decoding calls for (R34, R105). `step_completes` ties it to `step`. -/
def Decoded.code : Decoded → CplCode
  | .command _ => 0
  | .refuse e => e.code

theorem Decoded.code_eq_zero_iff (d : Decoded) : d.code = 0 ↔ ∃ i, d = .command i := by
  cases d with
  | command i => exact iff_of_true rfl ⟨i, rfl⟩
  | refuse e => cases e <;> simp [Decoded.code, Reject.code]

theorem Decoded.code_eq_one_iff (d : Decoded) : d.code = 1 ↔ d = .refuse .illOp := by
  cases d with
  | command i => simp [Decoded.code]
  | refuse e => cases e <;> simp [Decoded.code, Reject.code]

theorem Decoded.code_eq_two_iff (d : Decoded) : d.code = 2 ↔ d = .refuse .illFld := by
  cases d with
  | command i => simp [Decoded.code]
  | refuse e => cases e <;> simp [Decoded.code, Reject.code]

theorem Decoded.code_ne_three (d : Decoded) : d.code ≠ 3 := by
  cases d with
  | command i => simp [Decoded.code]
  | refuse e => exact e.code_ne_three

/-- Only well-formed commands are spelled by a word (R52). -/
theorem wellFormed_of_decode_eq_command {w : CmdWord} {i : Instr} (h : decode w = .command i) : i.wellFormed = true :=
  ((decode_eq_command_iff w i).1 h).1

/-! ## What a command delivers on `RDATA` -/

/-- `RD` with an assigned number delivers the number's view (R33, R59). -/
theorem Instr.words_rd {r : BitVec 3} (h : r.toNat ≤ 5) (q : Regs) :
    ∃ v, q.view r = some v ∧ (Instr.rd r).words q = [v] := by
  obtain ⟨v, hv⟩ := Option.isSome_iff_exists.1 ((q.view_isSome_iff r).2 h)
  exact ⟨v, hv, by simp [Instr.words, hv]⟩

/-- `RD` with an assigned number writes no register (R38). -/
theorem Instr.regsAfter_rd {r : BitVec 3} (h : r.toNat ≤ 5) (q : Regs) : (Instr.rd r).regsAfter q = q :=
  if_pos h

/-- No command but `RD` delivers a word (R33). -/
theorem Instr.words_of_ne_rd {i : Instr} (h : ∀ r, i ≠ .rd r) (q : Regs) : i.words q = [] := by
  cases i with
  | rd r => exact absurd rfl (h r)
  | _ => rfl

end Sys2Proof

namespace Sys2Proof.Machine

/-! ## The lengths of the item lists (R32) -/

/-- `PB8` emits every whole group of 5 among its `PCNT + 8` bits (R66). -/
theorem packItems_length (q : Regs) (b : Byte) : (packItems q b).length = (q.pcnt.toNat + 8) / 5 :=
  packGroups_length _ 3 _ (by have := q.pcnt.isLt; omega)

theorem flushItems_length (q : Regs) : (flushItems q).length = if q.pcnt.toNat = 0 then 0 else 1 := by
  unfold flushItems
  split
  case isTrue h => rw [if_neg (Nat.ne_of_gt h), List.length_singleton]
  case isFalse h => rw [if_pos (Nat.eq_zero_of_not_pos h), List.length_nil]

theorem unpackItems_length (q : Regs) (v : Sym) : (unpackItems q v).length = if 3 ≤ q.ucnt.toNat then 1 else 0 := by
  have hcount : 8 ≤ q.ucnt.toNat + 5 ↔ 3 ≤ q.ucnt.toNat := by omega
  simp only [unpackItems, hcount]
  split <;> rfl

/-! ## A step on a waiting word -/

/-- A step on a waiting word takes it off `CMD` and delivers the code of its decoding (R30, R34, R108). -/
theorem step_completes {s : State} {w : CmdWord} {ws : List CmdWord} (h : s.cmd = w :: ws) :
    ∃ t, step s = .next t ∧ t.cmd = ws ∧ t.cpl = s.cpl ++ [(decode w).code] := by
  cases hd : decode w with
  | command i =>
    refine ⟨_, step_of_command h hd, rfl, ?_⟩
    rw [Instr.after_cpl, Instr.code_of_wellFormed (wellFormed_of_decode_eq_command hd), Decoded.code]
  | refuse e => exact ⟨_, step_of_refuse h hd, rfl, rfl⟩

theorem run_succ_of_step {M : Host.Core} {s t : M.State} (h : M.step s = .next t) (k : Nat) :
    M.run (k + 1) s = M.run k t := by
  rw [Host.Core.run, h]

/-- As many steps as words wait empty `CMD` and deliver the words' codes in order (R30, R41). -/
theorem run_completes_all (ws : List CmdWord) {s : State} (h : s.cmd = ws) :
    ∃ t : State, core.run ws.length s = .next t ∧ t.cmd = [] ∧ t.cpl = s.cpl ++ ws.map fun w => (decode w).code := by
  induction ws generalizing s with
  | nil => exact ⟨s, rfl, h, by simp⟩
  | cons w ws ih =>
    obtain ⟨u, hstep, hcmd, hcpl⟩ := step_completes h
    obtain ⟨t, hrun, hidle, htrace⟩ := ih hcmd
    refine ⟨t, ?_, hidle, ?_⟩
    · exact (run_succ_of_step (M := core) hstep ws.length).trans hrun
    · rw [htrace, hcpl, List.map_cons, List.append_assoc, List.singleton_append]

/-! ## The obligations of spec/20_memory.md -/

/-- Settles O5: the code a step delivers is that of the word's decoding. -/
theorem everyWordCompletesWithOneCode : Obligations.EveryWordCompletesWithOneCode := by
  intro s w ws h
  obtain ⟨t, hstep, hcmd, hcpl⟩ := step_completes h
  exact ⟨t, (decode w).code, hstep, hcmd, hcpl, (decode w).code_eq_zero_iff, (decode w).code_eq_one_iff,
    (decode w).code_eq_two_iff, (decode w).code_ne_three⟩

/-- Settles O7, by the induction over the waiting words in `run_completes_all`. -/
theorem presentedWordsAreAllExecutedInOrder : Obligations.PresentedWordsAreAllExecutedInOrder := by
  intro s
  obtain ⟨t, hrun, hidle, hcpl⟩ := run_completes_all s.cmd rfl
  refine ⟨t, hrun, hidle, hcpl.trans (congrArg (s.cpl ++ ·) (List.map_congr_left fun w _ => ?_))⟩
  cases decode w with
  | command i => rfl
  | refuse e => cases e <;> rfl

/-- Settles O30: an executed word appends its command's items, a refused word none. -/
theorem itemsAppendedByEachCommand : Obligations.ItemsAppendedByEachCommand := by
  intro s t w ws hp hw hs
  obtain ⟨i, hd, rfl⟩ | ⟨e, hd, rfl⟩ := step_cases_of_cmd_cons hw hs
  · refine ⟨i.items s.regs, rfl, ?_⟩
    rw [hd]
    cases i with
    | pb8 b =>
      have hpcnt : s.regs.pcnt.toNat ≤ 4 := hp.1
      simp only [Instr.items, List.length_map, packItems_length]
      split <;> omega
    | pfl => simp only [Instr.items, List.length_map, flushItems_length]
    | us5 v => simp only [Instr.items, List.length_map, unpackItems_length]
    | _ => rfl
  · refine ⟨[], by simp, ?_⟩
    rw [hd]
    rfl

/-- Settles O31, by whether the word spells an `RD`. -/
theorem rdataDeliversOnlyForRd : Obligations.RdataDeliversOnlyForRd := by
  intro s t w ws hw hs
  obtain ⟨i, hd, rfl⟩ | ⟨e, hd, rfl⟩ := step_cases_of_cmd_cons hw hs
  · by_cases hrd : ∃ r, i = .rd r
    · obtain ⟨r, rfl⟩ := hrd
      have hr : r.toNat ≤ 5 := of_decide_eq_true (wellFormed_of_decode_eq_command hd)
      obtain ⟨v, hview, hwords⟩ := Instr.words_rd hr s.regs
      exact .inl ⟨r, v, hd, hview, by rw [Instr.after_rdata, hwords]⟩
    · have hne : ∀ r, i ≠ .rd r := not_exists.1 hrd
      exact .inr ⟨by simpa [hd] using hne, by simp [Instr.words_of_ne_rd hne]⟩
  · exact .inr ⟨by simp [hd], rfl⟩

/-- Settles O32: the first `RD` leaves the registers, so the second delivers the same view of them. -/
theorem readingTwiceGivesTheSameWord : Obligations.ReadingTwiceGivesTheSameWord := by
  intro r s hr hs
  obtain ⟨v, -, hwords⟩ := Instr.words_rd hr s.regs
  have hwf : (Instr.rd r).wellFormed = true := decide_eq_true hr
  refine ⟨_, v, issueAll_of_idle (by simp [hwf]) hs, ?_, ?_, ?_⟩
  · simp [Instr.regsAfter_rd hr, hwords]
  · simp [Instr.regsAfter_rd hr]
  · simp [Instr.items]

/-- Settles O3: both sides are the command's closed form, by `step_of_command` and `exec_eq_next`. -/
theorem stepRunsTheDecodedCommand : Obligations.StepRunsTheDecodedCommand := by
  refine ⟨fun s w ws i hw hd => ?_, fun s hs => step_of_cmd_nil hs⟩
  rw [step_of_command hw hd, exec_eq_next]

end Sys2Proof.Machine

/-! PROOFS. The encoding (spec/30_encoding.md): the refused words, the opcode map, the totals, and the round trip. -/

namespace Sys2Proof

/-! ## Refused words (R51, R52) -/

/-- A shape that tests its reserved bits refuses with `CPL_ILLFLD`, and exactly when the test says so (R52). -/
theorem ite_eq_refuse_iff (p : Prop) [Decidable p] (i : Instr) (e : Reject) :
    (if p then Decoded.refuse .illFld else .command i) = .refuse e ↔ e = .illFld ∧ p := by
  split
  case isTrue h => rw [Decoded.refuse.injEq, eq_comm, and_iff_left h]
  case isFalse h => exact iff_of_false Decoded.noConfusion fun ⟨_, hp⟩ => h hp

theorem shapeN_eq_refuse_iff (i : Instr) (arg : BitVec 8) (e : Reject) :
    shapeN i arg = .refuse e ↔ e = .illFld ∧ arg ≠ 0 := by
  rw [shapeN, ← ite_not, ite_eq_refuse_iff]

theorem shapeB_ne_refuse (f : Byte → Instr) (arg : BitVec 8) (e : Reject) : shapeB f arg ≠ .refuse e :=
  Decoded.noConfusion

theorem shapeS_eq_refuse_iff (f : Sym → Instr) (arg : BitVec 8) (e : Reject) :
    shapeS f arg = .refuse e ↔ e = .illFld ∧ arg.extractLsb' 5 3 ≠ 0 :=
  ite_eq_refuse_iff _ _ e

theorem shapeV_eq_refuse_iff (f : BitVec 1 → Instr) (arg : BitVec 8) (e : Reject) :
    shapeV f arg = .refuse e ↔ e = .illFld ∧ arg.extractLsb' 1 7 ≠ 0 :=
  ite_eq_refuse_iff _ _ e

/-- The register numbers with no view are 6 and 7 (R52). -/
theorem five_lt_toNat_iff (r : BitVec 3) : 5 < r.toNat ↔ r = 6 ∨ r = 7 := by
  revert r
  decide

theorem shapeR_eq_refuse_iff (f : BitVec 3 → Instr) (arg : BitVec 8) (e : Reject) :
    shapeR f arg = .refuse e ↔
      e = .illFld ∧ (arg.extractLsb' 3 5 ≠ 0 ∨ arg.extractLsb' 0 3 = 6 ∨ arg.extractLsb' 0 3 = 7) := by
  rw [← five_lt_toNat_iff]
  exact ite_eq_refuse_iff _ _ e

theorem eq_ofNat_of_toNat_eq {n : Nat} {op : BitVec 4} (h : op.toNat = n) : op = BitVec.ofNat 4 n := by
  rw [← h, BitVec.ofNat_toNat, BitVec.setWidth_eq]

theorem decodeOp_eq_refuse_iff {op : BitVec 4} (hop : op ≠ 0x3) (arg : BitVec 8) (e : Reject) :
    decodeOp op arg = .refuse e ↔ e = .illFld ∧
      ((op ∈ [0x0, 0x1, 0x4, 0x9, 0xA, 0xB, 0xD, 0xF] ∧ arg ≠ 0) ∨
       (op ∈ [0x8, 0xE] ∧ arg.extractLsb' 5 3 ≠ 0) ∨
       (op = 0x5 ∧ arg.extractLsb' 1 7 ≠ 0) ∨
       (op = 0x2 ∧ (arg.extractLsb' 3 5 ≠ 0 ∨ arg.extractLsb' 0 3 = 6 ∨ arg.extractLsb' 0 3 = 7))) := by
  unfold decodeOp
  split
  case h_16 => exact absurd (by revert op; decide) hop
  all_goals
    rename_i hn
    obtain rfl := eq_ofNat_of_toNat_eq hn
    simp [shapeN_eq_refuse_iff, shapeB_ne_refuse, shapeS_eq_refuse_iff, shapeV_eq_refuse_iff, shapeR_eq_refuse_iff]

theorem decode_of_opcode_eq_three {w : CmdWord} (hop : w.extractLsb' 12 4 = 0x3) : decode w = .refuse .illOp :=
  if_pos hop

/-- With `z` zero a word is decoded by its opcode's shape, the unassigned opcode included (R50). -/
theorem decode_of_z_eq_zero {w : CmdWord} (hz : w.extractLsb' 8 4 = 0) :
    decode w = decodeOp (w.extractLsb' 12 4) (w.extractLsb' 0 8) := by
  by_cases hop : w.extractLsb' 12 4 = 0x3
  · rw [decode_of_opcode_eq_three hop, hop]
    rfl
  · rw [decode, if_neg hop, if_neg (not_not.2 hz)]

/-- The opcode alone decides a `CPL_ILLOP` (R51, R110). -/
theorem decode_eq_refuse_illOp_iff (w : CmdWord) : decode w = .refuse .illOp ↔ w.extractLsb' 12 4 = 0x3 := by
  refine ⟨fun h => by_contra fun hop => ?_, decode_of_opcode_eq_three⟩
  by_cases hz : w.extractLsb' 8 4 = 0
  · simp [decode_of_z_eq_zero hz, decodeOp_eq_refuse_iff hop] at h
  · simp [decode_of_z_ne_zero w hop hz] at h

/-- Under an assigned opcode a word is refused for its `z` or for its operand field (R52). -/
theorem decode_eq_refuse_illFld_iff {w : CmdWord} (hop : w.extractLsb' 12 4 ≠ 0x3) :
    decode w = .refuse .illFld ↔
      w.extractLsb' 8 4 ≠ 0 ∨ decodeOp (w.extractLsb' 12 4) (w.extractLsb' 0 8) = .refuse .illFld := by
  by_cases hz : w.extractLsb' 8 4 = 0
  · rw [decode_of_z_eq_zero hz, or_iff_right (not_not.2 hz)]
  · exact iff_of_true (decode_of_z_ne_zero w hop hz) (.inl hz)

/-- Opcode `0x3` is the block of words `0x3000` to `0x3FFF` (R51). -/
theorem opcode_eq_three_iff (w : CmdWord) : w.extractLsb' 12 4 = 0x3 ↔ 0x3000 ≤ w.toNat ∧ w.toNat ≤ 0x3FFF := by
  have hlt := w.isLt
  rw [← BitVec.toNat_inj, BitVec.extractLsb'_toNat, Nat.shiftRight_eq_div_pow]
  simp only [BitVec.reduceToNat]
  omega

/-! ## The opcode map by match and mask (R49) -/

/-- A word is its bits from `n` up, joined with its low `n` bits. -/
theorem and_mask_or_low_bits (w : CmdWord) (n : Nat) :
    (w &&& (BitVec.allOnes 16 <<< n)) ||| (w.extractLsb' 0 n).setWidth 16 = w := by
  ext k hk
  by_cases hkn : k < n
  · simp [hkn, hk]
  · simp [hkn, -BitVec.reduceAllOnes]

/-- The row is matched by the words of the commands `f v`, the operand standing in the `n` bits the mask leaves out. -/
structure OpcodeRow.Spells (row : OpcodeRow) {n : Nat} (f : BitVec n → Instr) : Prop where
  mask : row.mask = BitVec.allOnes 16 <<< n
  encode : ∀ v, encode (f v) = row.fixed ||| v.setWidth 16
  mnemonic : ∀ v, (f v).mnemonic = row.mnemonic

theorem exists_spells_of_mem_opcodeTable {row : OpcodeRow} (h : row ∈ opcodeTable) :
    ∃ (n : Nat) (f : BitVec n → Instr), row.Spells f := by
  revert row
  simp only [opcodeTable, List.forall_mem_cons]
  refine ⟨⟨0, fun _ => .nop, ?_⟩, ⟨0, fun _ => .srst, ?_⟩, ⟨3, .rd, ?_⟩, ⟨0, fun _ => .cinit, ?_⟩, ⟨1, .cvsel, ?_⟩,
    ⟨8, .chrph, ?_⟩, ⟨8, .chrpl, ?_⟩, ⟨5, .csym, ?_⟩, ⟨0, fun _ => .cfin, ?_⟩, ⟨0, fun _ => .cvfy, ?_⟩,
    ⟨0, fun _ => .rinit, ?_⟩, ⟨8, .pb8, ?_⟩, ⟨0, fun _ => .pfl, ?_⟩, ⟨5, .us5, ?_⟩, ⟨0, fun _ => .uend, ?_⟩, ?_⟩
  case refine_16 => simp
  all_goals exact ⟨by decide, by decide, fun _ => rfl⟩

theorem OpcodeRow.Spells.encode_low_bits {row : OpcodeRow} {n : Nat} {f : BitVec n → Instr} (h : row.Spells f)
    {w : CmdWord} (hw : w &&& row.mask = row.fixed) : Sys2Proof.encode (f (w.extractLsb' 0 n)) = w := by
  rw [h.encode, ← hw, h.mask, and_mask_or_low_bits]

/-- A command's word matches the row of its mnemonic (the family of Laws/PerInstr.lean, over all commands). -/
theorem tableRow (i : Instr) : Laws.TableRow.Statement i := by
  cases i with
  | nop => exact Laws.TableRow.nop
  | srst => exact Laws.TableRow.srst
  | rd r => exact Laws.TableRow.rd r
  | cinit => exact Laws.TableRow.cinit
  | cvsel v => exact Laws.TableRow.cvsel v
  | chrph c => exact Laws.TableRow.chrph c
  | chrpl c => exact Laws.TableRow.chrpl c
  | csym v => exact Laws.TableRow.csym v
  | cfin => exact Laws.TableRow.cfin
  | cvfy => exact Laws.TableRow.cvfy
  | rinit => exact Laws.TableRow.rinit
  | pb8 b => exact Laws.TableRow.pb8 b
  | pfl => exact Laws.TableRow.pfl
  | us5 v => exact Laws.TableRow.us5 v
  | uend => exact Laws.TableRow.uend

/-- Only `RD` can be ill-formed, and its word shows it (R47, R52). -/
theorem wellFormed_iff_encode (i : Instr) :
    i.wellFormed = true ↔ (i.mnemonic = "RD" → ((encode i).extractLsb' 0 3).toNat ≤ 5) := by
  cases i with
  | rd r => revert r; decide
  | _ => simp [Instr.wellFormed, Instr.mnemonic]

/-- A match fixes the opcode field to the row's, and `fixed` is nothing but the opcode. -/
theorem and_opcode_eq_fixed {row : OpcodeRow} (h : row ∈ opcodeTable) {w : CmdWord} (hw : w &&& row.mask = row.fixed) :
    w &&& 0xF000 = row.fixed := by
  have hrows : ∀ row ∈ opcodeTable, row.mask &&& 0xF000 = 0xF000 ∧ row.fixed &&& 0xF000 = row.fixed := by decide
  obtain ⟨hmask, hfixed⟩ := hrows row h
  rw [← hfixed, ← hw, BitVec.and_assoc, hmask]

theorem opcodeTable_fixed_pairwise_ne : opcodeTable.Pairwise (·.fixed ≠ ·.fixed) := by
  decide

/-! ## How many words spell a command (R49) -/

/-- How many operand fields are legal under an opcode, always the lowest ones (R47, R52): all `2 ^ n` values of an `n`-bit
operand, but 6 for `RD`, and none under the unassigned opcode `0x3`. `exists_decodeOp_eq_command_iff` ties it to `decodeOp`. -/
def legalArgs (op : Nat) : Nat :=
  [1, 1, 6, 0, 1, 2, 256, 256, 32, 1, 1, 1, 256, 1, 32, 1].getD op 0

theorem legalArgs_le (op : Nat) : legalArgs op ≤ 256 := by
  by_cases h : op < 16
  · revert op
    decide
  · simp [legalArgs, h]

/-- A field is one of the `c` lowest values exactly when it holds a zero-extended operand below `c`. -/
theorem exists_lt_and_eq_setWidth_iff {n c : Nat} (hn : n ≤ 8) (hc : c ≤ 2 ^ n) (arg : BitVec 8) :
    (∃ v : BitVec n, v.toNat < c ∧ arg = v.setWidth 8) ↔ arg.toNat < c := by
  constructor
  · rintro ⟨v, hv, rfl⟩
    rwa [BitVec.toNat_setWidth_of_le hn]
  · intro h
    have hlow : (arg.setWidth n).toNat = arg.toNat := by rw [BitVec.toNat_setWidth, Nat.mod_eq_of_lt (h.trans_le hc)]
    refine ⟨arg.setWidth n, by rwa [hlow], ?_⟩
    rw [← BitVec.toNat_inj, BitVec.toNat_setWidth_of_le hn, hlow]

theorem exists_eq_setWidth_iff {n : Nat} (hn : n ≤ 8) (arg : BitVec 8) :
    (∃ v : BitVec n, arg = v.setWidth 8) ↔ arg.toNat < 2 ^ n := by
  simpa [BitVec.isLt] using exists_lt_and_eq_setWidth_iff hn le_rfl arg

theorem exists_decodeOp_eq_command_iff (op : BitVec 4) (arg : BitVec 8) :
    (∃ i, decodeOp op arg = .command i) ↔ arg.toNat < legalArgs op.toNat := by
  unfold decodeOp
  split
  case h_1 hn | h_2 hn | h_4 hn | h_9 hn | h_10 hn | h_11 hn | h_13 hn | h_15 hn =>
    simp [shapeN_eq_command_iff, hn, legalArgs, ← BitVec.toNat_inj]
  case h_6 hn | h_7 hn | h_12 hn =>
    simpa [shapeB_eq_command_iff, hn, legalArgs] using arg.isLt
  case h_8 hn | h_14 hn =>
    simpa [shapeS_eq_command_iff, hn, legalArgs] using exists_eq_setWidth_iff (n := 5) (by decide) arg
  case h_5 hn =>
    simpa [shapeV_eq_command_iff, hn, legalArgs] using exists_eq_setWidth_iff (n := 1) (by decide) arg
  case h_3 hn =>
    simpa [shapeR_eq_command_iff, hn, legalArgs, Nat.lt_succ_iff] using
      exists_lt_and_eq_setWidth_iff (n := 3) (c := 6) (by decide) (by decide) arg
  case h_16 =>
    obtain rfl : op = 0x3 := by revert op; decide
    simp [legalArgs]

/-- A word spells a command exactly when `z` is zero and its opcode's shape accepts the operand field (R50). -/
theorem decode_eq_command_iff_decodeOp (w : CmdWord) (i : Instr) :
    decode w = .command i ↔
      w.extractLsb' 8 4 = 0 ∧ decodeOp (w.extractLsb' 12 4) (w.extractLsb' 0 8) = .command i := by
  by_cases hz : w.extractLsb' 8 4 = 0
  · rw [decode_of_z_eq_zero hz, and_iff_right hz]
  · refine iff_of_false ?_ fun ⟨h0, _⟩ => hz h0
    by_cases hop : w.extractLsb' 12 4 = 0x3
    · simp [decode_of_opcode_eq_three hop]
    · simp [decode_of_z_ne_zero w hop hz]

/-- The same by arithmetic on the word: the bits below the opcode are one of the opcode's legal operand fields. -/
theorem exists_decode_eq_command_iff (w : CmdWord) :
    (∃ i, decode w = .command i) ↔ w.toNat % 4096 < legalArgs (w.toNat / 4096) := by
  have hlt := w.isLt
  have hle := legalArgs_le (w.toNat / 4096)
  have hop : (w.extractLsb' 12 4).toNat = w.toNat / 4096 := by
    rw [BitVec.extractLsb'_toNat, Nat.shiftRight_eq_div_pow]
    omega
  have hz : w.extractLsb' 8 4 = 0 ↔ w.toNat / 256 % 16 = 0 := by
    rw [← BitVec.toNat_inj, BitVec.extractLsb'_toNat, Nat.shiftRight_eq_div_pow]
    rfl
  have harg : (w.extractLsb' 0 8).toNat = w.toNat % 256 := BitVec.extractLsb'_toNat 0 8 w
  simp only [decode_eq_command_iff_decodeOp, exists_and_left, exists_decodeOp_eq_command_iff, hop, hz, harg]
  omega

theorem countP_range_lt {c m : Nat} (h : c ≤ m) : (List.range m).countP (· < c) = c := by
  obtain ⟨d, rfl⟩ := Nat.exists_eq_add_of_le h
  have hlow : (List.range c).countP (· < c) = (List.range c).length := List.countP_eq_length.2 (by simp)
  have hhigh : ((List.range d).map (c + ·)).countP (· < c) = 0 := List.countP_eq_zero.2 (by simp)
  rw [List.range_add, List.countP_append, hlow, hhigh, List.length_range, Nat.add_zero]

/-- Counting in blocks of `m`: what is among the `c j` lowest of block `j`. -/
theorem countP_range_mul {m : Nat} (hm : 0 < m) {c : Nat → Nat} (hc : ∀ j, c j ≤ m) (k : Nat) :
    (List.range (k * m)).countP (fun n => n % m < c (n / m)) = ((List.range k).map c).sum := by
  induction k with
  | zero => simp
  | succ k ih =>
    have hblock : ((List.range m).map (k * m + ·)).countP (fun n => n % m < c (n / m)) = c k := by
      rw [List.countP_map]
      refine (List.countP_congr fun a ha => ?_).trans (countP_range_lt (hc k))
      have ha : a < m := List.mem_range.1 ha
      simp [Nat.mul_comm k m, Nat.mod_eq_of_lt ha, Nat.mul_add_div hm, Nat.div_eq_of_lt ha]
    rw [Nat.succ_mul, List.range_add, List.countP_append, ih, hblock, List.range_succ, List.map_append, List.sum_append]
    simp

/-- Counting words by opcode: the words whose low 12 bits are among the `c op` lowest. -/
theorem countP_words {p : Nat → Bool} {c : Nat → Nat} (hc : ∀ op, c op ≤ 4096)
    (hp : ∀ n < 65536, p n = true ↔ n % 4096 < c (n / 4096)) :
    (List.range 65536).countP p = ((List.range 16).map c).sum := by
  rw [← countP_range_mul (by decide) hc 16]
  exact List.countP_congr fun n hn => by rw [hp n (List.mem_range.1 hn), decide_eq_true_iff]

/-- Whether a decoding is a command: `Decoded.isCommand_iff`. -/
def Decoded.isCommand : Decoded → Bool
  | .command _ => true
  | .refuse _ => false

@[simp] theorem Decoded.isCommand_command (i : Instr) : (Decoded.command i).isCommand = true := rfl
@[simp] theorem Decoded.isCommand_refuse (e : Reject) : (Decoded.refuse e).isCommand = false := rfl

theorem Decoded.isCommand_iff (d : Decoded) : d.isCommand = true ↔ ∃ i, d = .command i := by
  cases d <;> simp

theorem toNat_ofNat_of_lt {n : Nat} (h : n < 65536) : (BitVec.ofNat 16 n).toNat = n :=
  Nat.mod_eq_of_lt h

/-- R49's total of legal words: the sum of `legalArgs` over the 16 opcodes. -/
theorem countP_isCommand : ((List.range 65536).countP fun n => (decode (BitVec.ofNat 16 n)).isCommand) = 848 :=
  countP_words (c := legalArgs) (fun op => (legalArgs_le op).trans (by decide)) fun n hn => by
    rw [Decoded.isCommand_iff, exists_decode_eq_command_iff, toNat_ofNat_of_lt hn]

/-- The block of opcode `0x3` is refused whole, and no other word for its opcode (R51). -/
theorem countP_illOp : ((List.range 65536).countP fun n => decode (BitVec.ofNat 16 n) = .refuse .illOp) = 4096 :=
  countP_words (c := fun op => if op = 3 then 4096 else 0) (fun op => by split <;> decide) fun n hn => by
    rw [decide_eq_true_iff, decode_eq_refuse_illOp_iff, opcode_eq_three_iff, toNat_ofNat_of_lt hn]
    split <;> omega

/-- Each decoding is a command or one of the two refusals. -/
theorem countP_decoded_add (ds : List Decoded) :
    ds.countP (·.isCommand) + ds.countP (· = .refuse .illOp) + ds.countP (· = .refuse .illFld) = ds.length := by
  induction ds with
  | nil => rfl
  | cons d ds ih =>
    rcases d with i | (_ | _) <;> simp [List.countP_cons] <;> omega

/-- The words left over are refused for a field (R52). -/
theorem countP_illFld : ((List.range 65536).countP fun n => decode (BitVec.ofNat 16 n) = .refuse .illFld) = 60592 := by
  have htotal := countP_decoded_add ((List.range 65536).map fun n => decode (BitVec.ofNat 16 n))
  simp only [List.countP_map, List.length_map, List.length_range, Function.comp_def, countP_isCommand,
    countP_illOp] at htotal
  omega

end Sys2Proof

namespace Sys2Proof.Machine

/-- `exec` of `RD 6` and `RD 7`: there is no view to deliver, so the command is refused (R52). -/
theorem exec_rd_of_unassigned {r : BitVec 3} (hr : 5 < r.toNat) (s : State) :
    exec (.rd r) s = .next (s.refuse .illFld) := by
  have hview : s.regs.view r = none := by simpa [hr] using (s.regs.view_isSome_iff r).not
  simp [exec, execRd, hview]

/-! ## The obligations of spec/30_encoding.md -/

/-- Settles O9, by `decode_eq_command_iff`: the encoding of a well-formed command is a word that spells it. -/
theorem decodeOfEncodeIsTheCommand : Obligations.DecodeOfEncodeIsTheCommand :=
  fun i hwf => (decode_eq_command_iff (encode i) i).2 ⟨hwf, rfl⟩

/-- Settles O10, by the other direction of `decode_eq_command_iff`. -/
theorem encodeOfDecodeIsTheWord : Obligations.EncodeOfDecodeIsTheWord :=
  fun w i hd => (decode_eq_command_iff w i).1 hd

/-- Settles O11: the opcode alone decides a `CPL_ILLOP`, and the shape of each assigned opcode says which operand fields it
refuses. -/
theorem refusedWordsByReason : Obligations.RefusedWordsByReason := by
  refine ⟨fun w => (decode_eq_refuse_illOp_iff w).trans (opcode_eq_three_iff w), fun w => ?_, rfl, rfl⟩
  by_cases hop : w.extractLsb' 12 4 = 0x3
  · simp [decode_of_opcode_eq_three hop, hop]
  · rw [decode_eq_refuse_illFld_iff hop, decodeOp_eq_refuse_iff hop, and_iff_right hop]
    simp

/-- Settles O12: a command's word matches its row; a word that matches a row is the encoding of the row's command on the bits
the mask leaves out; and the rows are told apart by the opcode field. -/
theorem decodeAgreesWithTheOpcodeMap : Obligations.DecodeAgreesWithTheOpcodeMap := by
  refine ⟨fun w m => ⟨?_, ?_⟩, ?_⟩
  · rintro ⟨i, hd, rfl⟩
    obtain ⟨hwf, rfl⟩ := (decode_eq_command_iff w i).1 hd
    obtain ⟨row, hrow, hm, hmatch⟩ := tableRow i hwf
    exact ⟨row, hrow, hm, of_decide_eq_true hmatch, (wellFormed_iff_encode i).1 hwf⟩
  · rintro ⟨row, hrow, rfl, hmatch, hrd⟩
    obtain ⟨n, f, hf⟩ := exists_spells_of_mem_opcodeTable hrow
    have hw := hf.encode_low_bits hmatch
    have hm := hf.mnemonic (w.extractLsb' 0 n)
    have hwf := (wellFormed_iff_encode (f (w.extractLsb' 0 n))).2 (by rwa [hm, hw])
    exact ⟨_, (decode_eq_command_iff w _).2 ⟨hwf, hw⟩, hm⟩
  · refine opcodeTable_fixed_pairwise_ne.imp_of_mem fun {a b} ha hb hne w ⟨hwa, hwb⟩ => hne ?_
    rw [← and_opcode_eq_fixed ha hwa, and_opcode_eq_fixed hb hwb]

/-- Settles O13, by counting under each opcode; the third total is what the first two leave. -/
theorem countsOfLegalAndRefusedWords : Obligations.CountsOfLegalAndRefusedWords :=
  ⟨countP_isCommand, countP_illOp, countP_illFld⟩

/-- Settles O8, by evaluating the decoder on the 21 words. -/
theorem sampleWordsDecode : Obligations.SampleWordsDecode := by
  unfold Obligations.SampleWordsDecode
  decide

/-- Settles O17: neither `exec` nor the shape of `RD` accepts a number above 5. -/
theorem rdOfUnassignedNumberIsRefused : Obligations.RdOfUnassignedNumberIsRefused := by
  intro r s hr
  refine ⟨exec_rd_of_unassigned hr s, ?_⟩
  have hlow : (r.setWidth 8).extractLsb' 0 3 = r := ((eq_setWidth_iff_extractLsb' (m := 5) rfl _ r).1 rfl).2
  rw [encode, decode_encodeWord _ _ (by decide)]
  exact (shapeR_eq_refuse_iff _ _ _).2 ⟨rfl, .inr (by rwa [hlow, ← five_lt_toNat_iff])⟩

/-- Settles O59, by evaluating the assembler on the ten lines. -/
theorem assemblerLinesAndTheirWords : Obligations.AssemblerLinesAndTheirWords := by
  unfold Obligations.AssemblerLinesAndTheirWords
  decide

end Sys2Proof.Machine

/-! PROOFS. The control commands (spec/40_control.md): `NOP`, `SRST`, `RD`, and what `SRST` makes of a transaction. -/

namespace Sys2Proof

open Machine

/-! ## The words of the control commands -/

theorem encode_rd (r : BitVec 3) : encode (.rd r) = 0x2000 ||| r.setWidth 16 := by
  revert r
  decide

/-- Under an opcode of shape `N` the word with no further bit set is the only one that is not refused (R47, R52). -/
theorem decode_eq_refuse_of_shapeN {op : BitVec 4} (hop : op ∈ [0x0, 0x1, 0x4, 0x9, 0xA, 0xB, 0xD, 0xF]) {w : CmdWord}
    (hw : w.extractLsb' 12 4 = op) (hne : w ≠ encodeWord op 0) : decode w = .refuse .illFld := by
  have hop3 : op ≠ 0x3 := by rintro rfl; simp at hop
  rw [decode_eq_refuse_illFld_iff (hw ▸ hop3), hw, decodeOp_eq_refuse_iff hop3]
  by_cases hz : w.extractLsb' 8 4 = 0
  · have harg : w.extractLsb' 0 8 ≠ 0 := fun h0 => hne (by rw [← encodeWord_of_fields w hz, hw, h0])
    exact .inr ⟨rfl, .inl ⟨hop, harg⟩⟩
  · exact .inl hz

/-- Only an `RD` of 6 or 7 is ill-formed (R52). -/
theorem Instr.exists_rd_of_not_wellFormed {i : Instr} (h : ¬ i.wellFormed = true) : ∃ r, i = .rd r ∧ 5 < r.toNat := by
  cases i with
  | rd r => exact ⟨r, rfl, by simpa [Instr.wellFormed] using h⟩
  | _ => exact absurd rfl h

/-! ## `CMDERR` -/

/-- Once set, `CMDERR` stays set through every command but `SRST`, the ill-formed ones included (R58). -/
theorem Instr.regsAfter_cmdErr_of_ne_srst {i : Instr} (hi : i ≠ .srst) {q : Regs} (hq : q.cmdErr = 1) :
    (i.regsAfter q).cmdErr = 1 := by
  cases i with
  | srst => exact absurd rfl hi
  | rd r =>
    rw [Instr.regsAfter]
    split
    · exact hq
    · rfl
  | _ => exact hq

end Sys2Proof

namespace Sys2Proof.Machine

/-! ## The read views as numbers (R23) -/

/-- A field shifted above another one: their OR is a sum. -/
theorem shiftLeft_or_setWidth_eq_ofNat {m n k : Nat} (hn : n ≤ k) (a : BitVec m) (b : BitVec n) :
    (a.setWidth 32 <<< k) ||| b.setWidth 32 = BitVec.ofNat 32 (2 ^ k * a.toNat + b.toNat) := by
  have hdisjoint : (a.setWidth 32 <<< k) &&& b.setWidth 32 = 0#32 := by
    ext j hj
    by_cases hjk : j < k
    · simp [hjk]
    · simp [BitVec.getLsbD_of_ge b j (by omega)]
  have htwoPow : BitVec.ofNat 32 (2 ^ k) = BitVec.twoPow 32 k := BitVec.eq_of_toNat_eq (BitVec.toNat_twoPow 32 k).symm
  rw [← BitVec.add_eq_or_of_and_eq_zero _ _ hdisjoint, BitVec.shiftLeft_eq_mul_twoPow, BitVec.ofNat_add, BitVec.ofNat_mul,
    BitVec.ofNat_toNat, BitVec.ofNat_toNat, BitVec.mul_comm, htwoPow]

theorem Regs.pstate_eq_ofNat (q : Regs) : q.pstate = BitVec.ofNat 32 (256 * q.pcnt.toNat + q.pres.toNat) :=
  shiftLeft_or_setWidth_eq_ofNat (by decide) q.pcnt q.pres

theorem Regs.ustate_eq_ofNat (q : Regs) : q.ustate = BitVec.ofNat 32 (256 * q.ucnt.toNat + q.ures.toNat) :=
  shiftLeft_or_setWidth_eq_ofNat (by decide) q.ucnt q.ures

theorem Regs.status_eq_ofNat (q : Regs) :
    q.status = BitVec.ofNat 32 (4 * q.cmdErr.toNat + 2 * q.padErr.toNat + q.hrpErr.toNat) := by
  have hbits : ∀ c p h : BitVec 1, (c.setWidth 32 <<< 2) ||| (p.setWidth 32 <<< 1) ||| h.setWidth 32 =
      BitVec.ofNat 32 (4 * c.toNat + 2 * p.toNat + h.toNat) := by decide
  exact hbits q.cmdErr q.padErr q.hrpErr

/-- The value of the read view of an assigned register number, by R23's table. `Regs.view_eq_viewNat` ties it to the view. -/
def Regs.viewNat (q : Regs) (r : BitVec 3) : Nat :=
  if r = 0 then q.acc.toNat
  else if r = 1 then q.var.toNat
  else if r = 2 then q.mtch.toNat
  else if r = 3 then 4 * q.cmdErr.toNat + 2 * q.padErr.toNat + q.hrpErr.toNat
  else if r = 4 then 256 * q.pcnt.toNat + q.pres.toNat
  else 256 * q.ucnt.toNat + q.ures.toNat

theorem Regs.view_eq_viewNat (q : Regs) {r : BitVec 3} (hr : r.toNat ≤ 5) :
    q.view r = some (BitVec.ofNat 32 (q.viewNat r)) := by
  have hcases : r = 0 ∨ r = 1 ∨ r = 2 ∨ r = 3 ∨ r = 4 ∨ r = 5 := by bv_omega
  rcases hcases with rfl | rfl | rfl | rfl | rfl | rfl
  case inl | inr.inl | inr.inr.inl => simp [Regs.view, Regs.viewNat]
  case inr.inr.inr.inl => exact congrArg some q.status_eq_ofNat
  case inr.inr.inr.inr.inl => exact congrArg some q.pstate_eq_ofNat
  case inr.inr.inr.inr.inr => exact congrArg some q.ustate_eq_ofNat

/-! ## What a command does -/

/-- The whole next state of a well-formed command that appends nothing to `OUT` and delivers nothing on `RDATA`. -/
theorem exec_of_silent {i : Instr} {s : State} (hwf : i.wellFormed = true) (hitems : i.items s.regs = [])
    (hwords : i.words s.regs = []) :
    exec i s = .next { s with regs := i.regsAfter s.regs, cpl := s.cpl ++ [0] } := by
  rw [exec_eq_next, Instr.after, hitems, hwords, Instr.code_of_wellFormed hwf, List.append_nil, List.append_nil]

/-- `SRST` is `CINIT`, `RINIT` and `CVSEL 0` with `CMDERR` cleared: between them these write all ten registers (R58). -/
theorem Regs.reset_eq_inits (q : Regs) :
    Regs.reset = { (q.initChecksum.initRegroup.selectVariant 0) with cmdErr := 0 } := rfl

/-! ## Issuing any sequence of commands -/

/-- An idle engine answers every command the host issues as `exec` does: the word of an ill-formed one is refused, and so is
the command (R52). -/
theorem issue_eq_some_after (i : Instr) {s : State} (hs : s.Idle) : issue i s = some (i.after s) := by
  by_cases hwf : i.wellFormed = true
  · exact issue_of_idle hwf hs
  · obtain ⟨r, rfl, hr⟩ := Instr.exists_rd_of_not_wellFormed hwf
    have hcmd : (s.present (encode (.rd r))).cmd = [encode (.rd r)] := by simp [hs]
    have hafter : s.refuse .illFld = (Instr.rd r).after s := (exec_eq_next_iff _ _ _).1 (exec_rd_of_unassigned hr s)
    rw [issue, step_of_refuse hcmd (rdOfUnassignedNumberIsRefused r s hr).2, nextState?, ← hafter, ← hs, State.present]

/-- What a sequence of commands leaves in the registers of an idle engine, and appends to each output port, is a function of
the registers it finds. -/
theorem issueAll_determined_by_regs (is : List Instr) (q : Regs) :
    ∃ (regs : Regs) (items : List Byte) (words : List ReadWord) (codes : List CplCode),
      ∀ s : State, s.Idle → s.regs = q →
        issueAll is s = some
          { regs := regs, cmd := [], out := s.out ++ items, rdata := s.rdata ++ words, cpl := s.cpl ++ codes } := by
  induction is generalizing q with
  | nil =>
    refine ⟨q, [], [], [], fun s hs hq => ?_⟩
    simp only [List.append_nil, ← hs, ← hq]
    rfl
  | cons i is ih =>
    obtain ⟨regs, items, words, codes, hrest⟩ := ih (i.regsAfter q)
    refine ⟨regs, i.items q ++ items, i.words q ++ words, i.code :: codes, fun s hs hq => ?_⟩
    rw [issueAll, issue_eq_some_after i hs, Option.bind_some, hrest _ (hs.after i) (by rw [Instr.after_regs, hq])]
    simp [hq]

/-! ## The obligations of spec/40_control.md -/

/-- Settles O38: after `SRST` the registers are the reset values, and those determine the rest of the sequence. -/
theorem srstMakesATransactionForgetThePast : Obligations.SrstMakesATransactionForgetThePast := by
  intro commands
  obtain ⟨regs, items, words, codes, hrest⟩ := issueAll_determined_by_regs commands Regs.reset
  refine ⟨regs, items, words, Instr.srst.code :: codes, fun s hs => ?_⟩
  rw [issueAll, issue_eq_some_after .srst hs, Option.bind_some, hrest _ (hs.after .srst) rfl]
  simp [Instr.items, Instr.words]

/-- Settles O16: the refusals are those of O11 under opcode `0x2`, and the word delivered is the view of `Regs.view_eq_viewNat`. -/
theorem rdDeliversTheRegisterView : Obligations.RdDeliversTheRegisterView := by
  refine ⟨fun r hr => ?_, fun w hop hfield => ?_, fun r s hr => ?_⟩
  · exact (decode_eq_command_iff _ _).2 ⟨decide_eq_true hr, encode_rd r⟩
  · obtain ⟨-, hillFld, -⟩ := refusedWordsByReason
    rw [hillFld, hop]
    simpa using hfield
  · have hwf : (Instr.rd r).wellFormed = true := decide_eq_true hr
    rw [exec_eq_next, Instr.after, Instr.code_of_wellFormed hwf, Instr.regsAfter_rd hr, Instr.words, s.regs.view_eq_viewNat hr,
      Instr.items, List.append_nil]
    rfl

/-- Settles O14: `NOP` is a silent command that leaves the registers as they are. -/
theorem nopChangesNoRegister : Obligations.NopChangesNoRegister :=
  ⟨(decode_eq_command_iff _ _).2 ⟨rfl, rfl⟩, fun _ hop hne => decode_eq_refuse_of_shapeN (by decide) hop hne,
    fun _ => exec_of_silent rfl rfl rfl⟩

/-- Settles O15: `SRST` is a silent command; its reset values are those of the three initialising commands, by
`Regs.reset_eq_inits`. -/
theorem srstResetsEveryRegister : Obligations.SrstResetsEveryRegister := by
  have hsrst (s : State) : exec .srst s = .next { s with regs := Regs.reset, cpl := s.cpl ++ [0] } := exec_of_silent rfl rfl rfl
  refine ⟨(decode_eq_command_iff _ _).2 ⟨rfl, rfl⟩, fun _ hop hne => decode_eq_refuse_of_shapeN (by decide) hop hne, hsrst,
    fun s a b c ha hb hc => ?_, fun i s t ht hset hclear => ?_⟩
  · rw [exec_eq_next_iff] at ha hb hc
    subst ha hb hc
    rw [hsrst, Regs.reset_eq_inits s.regs]
    rfl
  · rw [exec_eq_next_iff] at ht
    subst ht
    by_contra hi
    rw [Instr.after_regs, Instr.regsAfter_cmdErr_of_ne_srst hi hset] at hclear
    exact absurd hclear (by decide)

end Sys2Proof.Machine

/-! PROOFS. The regrouping commands (spec/41_regroup.md): `RINIT`, `PB8`, `PFL`, `US5` and `UEND`, each on its own. -/

namespace Sys2Proof

/-! ## The words of the regrouping commands -/

theorem encode_pb8 (b : Byte) : encode (.pb8 b) = 0xC000 ||| b.setWidth 16 := rfl

theorem encode_us5 (v : Sym) : encode (.us5 v) = 0xE000 ||| v.setWidth 16 := by
  revert v
  decide

end Sys2Proof

namespace Sys2Proof.Machine

/-! ## The working value as a number -/

/-- Under a mask of `w` ones, the working value shifted down is a group of `w` bits of its number (R66, R68). -/
theorem shiftRight_and_setWidth {w : Nat} {mask : BitVec 12} (hmask : mask.toNat = 2 ^ w - 1) (acc : BitVec 12) (k : Nat) :
    ((acc >>> k) &&& mask).setWidth w = BitVec.ofNat w (acc.toNat / 2 ^ k) := by
  apply BitVec.eq_of_toNat_eq
  rw [BitVec.toNat_setWidth, BitVec.toNat_and, hmask, Nat.and_two_pow_sub_one_eq_mod, BitVec.toNat_ushiftRight,
    Nat.shiftRight_eq_div_pow, Nat.mod_mod, BitVec.toNat_ofNat]

/-- What stays of the working value is its number modulo `2 ^ n` (R66, R68). -/
theorem lowBits_setWidth (acc : BitVec 12) {n : Nat} (hn : n ≤ 11) (w : Nat) :
    (lowBits acc n).setWidth w = BitVec.ofNat w (acc.toNat % 2 ^ n) := by
  rw [← lowBits_toNat acc n hn, BitVec.ofNat_toNat]

/-- A group that fits a symbol keeps its number on `OUT` (R31). -/
theorem setWidth_ofNat_of_lt {n : Nat} (h : n < 32) : (BitVec.ofNat 5 n).setWidth 8 = BitVec.ofNat 8 n := by
  apply BitVec.eq_of_toNat_eq
  simp only [BitVec.toNat_setWidth, BitVec.toNat_ofNat]
  omega

theorem setWidth_ofNat_mod (n : Nat) : (BitVec.ofNat 5 n).setWidth 8 = BitVec.ofNat 8 (n % 32) := by
  rw [← setWidth_ofNat_of_lt (Nat.mod_lt n (by decide))]
  exact congrArg _ (BitVec.eq_of_toNat_eq (by simp))

/-! ## The packer -/

theorem packGroups_of_lt (acc : BitVec 12) (fuel : Nat) {n : Nat} (h : n < 5) : packGroups acc fuel n = [] := by
  cases fuel with
  | zero => rfl
  | succ fuel => rw [packGroups, if_neg (by omega)]

/-- One round of the packer's loop: the 5 oldest of the bits held leave (R66). -/
theorem packGroups_add_five (acc : BitVec 12) (fuel n : Nat) :
    packGroups acc (fuel + 1) (n + 5) = BitVec.ofNat 5 (acc.toNat / 2 ^ n) :: packGroups acc fuel n := by
  rw [packGroups, if_pos (by omega), Nat.add_sub_cancel, shiftRight_and_setWidth rfl]

/-- Fewer than 10 bits held: one group (R66). -/
theorem packItems_of_le_one {q : Regs} (hq : q.pcnt.toNat ≤ 1) (b : Byte) :
    packItems q b = [BitVec.ofNat 5 ((256 * q.pres.toNat + b.toNat) / 2 ^ (q.pcnt.toNat + 3))] := by
  rw [packItems, packGroups_add_five _ 2 (q.pcnt.toNat + 3), packGroups_of_lt _ _ (by omega), packBits_toNat]

/-- From 10 to 12 bits held: two groups (R66). -/
theorem packItems_of_eq_add_two {q : Regs} {m : Nat} (hm : q.pcnt.toNat = m + 2) (hle : m ≤ 2) (b : Byte) :
    packItems q b = [BitVec.ofNat 5 ((256 * q.pres.toNat + b.toNat) / 2 ^ (m + 5)),
      BitVec.ofNat 5 ((256 * q.pres.toNat + b.toNat) / 2 ^ m)] := by
  rw [packItems, hm, packGroups_add_five _ 2 (m + 5), packGroups_add_five _ 1 m, packGroups_of_lt _ _ (by omega),
    packBits_toNat]

/-- The residue's `PCNT` bits and the byte make at most `PCNT + 8` bits, so what is above the low `PCNT + 3` fits a group. -/
theorem first_group_lt {q : Regs} (hq : q.PackerOk) (b : Byte) :
    (256 * q.pres.toNat + b.toNat) / 2 ^ (q.pcnt.toNat + 3) < 32 := by
  obtain ⟨-, hres⟩ := hq
  have hb := b.isLt
  apply Nat.div_lt_of_lt_mul
  rw [pow_add]
  omega

/-- Registers after `PB8`, by numbers. -/
theorem Regs.pack_eq (q : Regs) (b : Byte) {n : Nat} (hn : (q.pcnt.toNat + 8) % 5 = n) :
    q.pack b = { q with
      pres := BitVec.ofNat 4 ((256 * q.pres.toNat + b.toNat) % 2 ^ n), pcnt := BitVec.ofNat 3 n } := by
  subst hn
  rw [← packBits_toNat, ← lowBits_setWidth _ (by omega)]
  rfl

theorem flushItems_of_eq_zero {q : Regs} (hq : q.pcnt.toNat = 0) : flushItems q = [] :=
  if_neg (by omega)

/-- `PFL` emits the residue moved to the top of a symbol (R67). -/
theorem flushItems_of_pos {q : Regs} (hq : 0 < q.pcnt.toNat) :
    flushItems q = [BitVec.ofNat 5 (q.pres.toNat * 2 ^ (5 - q.pcnt.toNat))] := by
  rw [flushItems, if_pos hq, List.cons.injEq, and_iff_left rfl]
  apply BitVec.eq_of_toNat_eq
  rw [BitVec.toNat_shiftLeft, BitVec.toNat_setWidth_of_le (by decide), Nat.shiftLeft_eq, BitVec.toNat_ofNat]

/-- The padded residue fits a symbol (R67). -/
theorem padded_residue_lt {q : Regs} (hq : q.PackerOk) : q.pres.toNat * 2 ^ (5 - q.pcnt.toNat) < 32 := by
  obtain ⟨hcnt, hres⟩ := hq
  calc q.pres.toNat * 2 ^ (5 - q.pcnt.toNat)
    _ < 2 ^ q.pcnt.toNat * 2 ^ (5 - q.pcnt.toNat) := Nat.mul_lt_mul_of_pos_right hres (Nat.two_pow_pos _)
    _ = 2 ^ 5 := by rw [← pow_add, Nat.add_sub_of_le (by omega)]

/-! ## The unpacker -/

/-- Fewer than 8 bits held: nothing is emitted (R68). -/
theorem unpackItems_of_lt_three {q : Regs} (hq : q.ucnt.toNat < 3) (v : Sym) : unpackItems q v = [] :=
  if_neg (by omega)

/-- 8 to 12 bits held: one byte (R68). -/
theorem unpackItems_of_eq_add_three {q : Regs} {n : Nat} (hn : q.ucnt.toNat = n + 3) (v : Sym) :
    unpackItems q v = [BitVec.ofNat 8 ((32 * q.ures.toNat + v.toNat) / 2 ^ n)] := by
  have h8 : q.ucnt.toNat + 5 = n + 8 := by omega
  simp only [unpackItems, h8, Nat.le_add_left, if_true, Nat.add_sub_cancel]
  rw [shiftRight_and_setWidth rfl, unpackBits_toNat]

/-- Registers after `US5`, by numbers. -/
theorem Regs.unpack_eq (q : Regs) (v : Sym) {n : Nat}
    (hn : (if 3 ≤ q.ucnt.toNat then q.ucnt.toNat - 3 else q.ucnt.toNat + 5) = n) :
    q.unpack v = { q with
      ures := BitVec.ofNat 7 ((32 * q.ures.toNat + v.toNat) % 2 ^ n), ucnt := BitVec.ofNat 3 n } := by
  have hu := q.ucnt.isLt
  have hn' : (if 8 ≤ q.ucnt.toNat + 5 then q.ucnt.toNat + 5 - 8 else q.ucnt.toNat + 5) = n := by
    rw [← hn]; split <;> split <;> omega
  rw [← unpackBits_toNat, ← lowBits_setWidth _ (by split at hn <;> omega), ← hn']
  rfl

/-! ## What a command does -/

/-- The whole next state of a well-formed command that delivers nothing on `RDATA`. -/
theorem exec_of_no_word {i : Instr} {s : State} (hwf : i.wellFormed = true) (hwords : i.words s.regs = []) :
    exec i s = .next
      { s with regs := i.regsAfter s.regs, out := s.out ++ i.items s.regs, cpl := s.cpl ++ [0] } := by
  rw [exec_eq_next, Instr.after, hwords, Instr.code_of_wellFormed hwf, List.append_nil]

/-! ## The obligations on single commands -/

/-- Settles O25: `RINIT` is a silent command. -/
theorem rinitEmptiesBothChannels : Obligations.RinitEmptiesBothChannels :=
  ⟨(decode_eq_command_iff _ _).2 ⟨rfl, rfl⟩, fun _ hop hne => decode_eq_refuse_of_shapeN (by decide) hop hne,
    fun _ => exec_of_silent rfl rfl rfl⟩

/-- Settles O29: `UEND` is a silent command, and `PADERR` is `padErrAfter` of what the unpacker held. -/
theorem uendChecksTheLeftover : Obligations.UendChecksTheLeftover := by
  refine ⟨(decode_eq_command_iff _ _).2 ⟨rfl, rfl⟩, fun _ hop hne => decode_eq_refuse_of_shapeN (by decide) hop hne,
    fun s => ?_⟩
  rw [exec_of_silent rfl rfl rfl, Instr.regsAfter, Regs.endUnpack, padErrAfter, ite_not]

/-- Settles O26, by whether one group or two are complete. -/
theorem pb8PacksAByte : Obligations.Pb8PacksAByte := by
  obtain ⟨-, hillFld, -⟩ := refusedWordsByReason
  refine ⟨fun b => (decode_eq_command_iff _ _).2 ⟨rfl, encode_pb8 b⟩, fun w hop hz => ?_, fun b s hp => ?_⟩
  · rw [hillFld, hop]
    exact ⟨by decide, .inl hz⟩
  · have hcnt : s.regs.pcnt.toNat ≤ 4 := hp.1
    have hfirst := first_group_lt hp b
    rw [exec_of_no_word rfl rfl, Instr.items, Instr.regsAfter]
    by_cases h1 : s.regs.pcnt.toNat ≤ 1
    · refine ⟨1, s.regs.pcnt.toNat + 3, ?_, ?_⟩
      · interval_cases s.regs.pcnt.toNat <;> decide
      · rw [packItems_of_le_one h1, s.regs.pack_eq b (n := s.regs.pcnt.toNat + 3) (by omega), if_pos rfl, List.map_singleton,
          List.map_singleton, setWidth_ofNat_of_lt hfirst]
    · obtain ⟨m, hm⟩ : ∃ m, s.regs.pcnt.toNat = m + 2 := Nat.exists_eq_add_of_le' (by omega)
      have hle : m ≤ 2 := by omega
      rw [hm] at hfirst
      refine ⟨2, m, ?_, ?_⟩
      · rw [hm]
        interval_cases m <;> decide
      · rw [packItems_of_eq_add_two hm hle, s.regs.pack_eq b (n := m) (by omega), if_neg (by decide)]
        simp only [List.map_cons, List.map_nil, setWidth_ofNat_of_lt hfirst, setWidth_ofNat_mod]

/-- Settles O27, by whether bits are held. -/
theorem pflFlushesThePacker : Obligations.PflFlushesThePacker := by
  refine ⟨(decode_eq_command_iff _ _).2 ⟨rfl, rfl⟩, fun _ hop hne => decode_eq_refuse_of_shapeN (by decide) hop hne,
    fun s hp => ?_⟩
  rw [exec_of_no_word rfl rfl, Instr.items, Instr.regsAfter, Regs.flush]
  by_cases h : s.regs.pcnt = 0
  · rw [flushItems_of_eq_zero (by rw [h]; rfl), if_pos h, List.map_nil]
  · have hpos : 0 < s.regs.pcnt.toNat := Nat.pos_of_ne_zero fun h0 => h (BitVec.eq_of_toNat_eq h0)
    rw [flushItems_of_pos hpos, if_neg h, List.map_singleton, setWidth_ofNat_of_lt (padded_residue_lt hp)]

/-- Settles O28, by whether a byte is complete. -/
theorem us5UnpacksASymbol : Obligations.Us5UnpacksASymbol := by
  obtain ⟨-, hillFld, -⟩ := refusedWordsByReason
  refine ⟨fun v => (decode_eq_command_iff _ _).2 ⟨rfl, encode_us5 v⟩, fun w hop hfield => ?_, fun v s _ => ?_⟩
  · rw [hillFld, hop]
    simpa using hfield
  · have hu := s.regs.ucnt.isLt
    rw [exec_of_no_word rfl rfl, Instr.items, Instr.regsAfter]
    by_cases h3 : s.regs.ucnt.toNat < 3
    · refine ⟨0, s.regs.ucnt.toNat + 5, ?_, ?_⟩
      · interval_cases s.regs.ucnt.toNat <;> decide
      · rw [unpackItems_of_lt_three h3, s.regs.unpack_eq v (n := s.regs.ucnt.toNat + 5) (if_neg (by omega)), if_pos rfl,
          List.map_nil]
    · obtain ⟨n, hn⟩ : ∃ n, s.regs.ucnt.toNat = n + 3 := Nat.exists_eq_add_of_le' (by omega)
      have hle : n ≤ 4 := by omega
      refine ⟨1, n, ?_, ?_⟩
      · rw [hn]
        interval_cases n <;> decide
      · rw [unpackItems_of_eq_add_three hn, s.regs.unpack_eq v (n := n) ((if_pos (by omega)).trans (by omega)),
          if_neg (by decide), List.map_singleton, BitVec.setWidth_eq]

end Sys2Proof.Machine

/-! PROOFS. Bit strings (spec/41_regroup.md R63, R64): the bits of a value and of a sequence, the groups cut from a string, and
the laws of the two regrouping functions (R72). -/

namespace Sys2Proof.Machine

/-! ## The bits of a value -/

@[simp] theorem msbFirst_length {n : Nat} (v : BitVec n) : (msbFirst v).length = n := by
  rw [msbFirst, List.length_map, List.length_range]

theorem msbFirst_injective {n : Nat} {u v : BitVec n} (h : msbFirst u = msbFirst v) : u = v :=
  BitVec.eq_of_getMsbD_eq fun i hi => List.map_inj_left.1 h i (List.mem_range.2 hi)

theorem msbFirst_ofNat (n c : Nat) : msbFirst (BitVec.ofNat n c) = (List.range n).map fun i => c.testBit (n - 1 - i) := by
  refine List.map_congr_left fun i hi => ?_
  have hi : i < n := List.mem_range.1 hi
  rw [BitVec.getMsbD, BitVec.getLsbD_ofNat, decide_eq_true hi, decide_eq_true (by omega : n - 1 - i < n), Bool.true_and,
    Bool.true_and]

/-- The bits of a number: those above the low `n`, then the low `n`. -/
theorem msbFirst_ofNat_add (m n c : Nat) :
    msbFirst (BitVec.ofNat (m + n) c) = msbFirst (BitVec.ofNat m (c / 2 ^ n)) ++ msbFirst (BitVec.ofNat n c) := by
  simp only [msbFirst_ofNat, List.range_add, List.map_append, List.map_map]
  congr 1 <;> refine List.map_congr_left fun i hi => ?_ <;> rw [List.mem_range] at hi
  · rw [Nat.testBit_div_two_pow]
    congr 1
    omega
  · rw [Function.comp_apply]
    congr 1
    omega

/-- The bits of a number with a value pushed behind it (R66, R68). -/
theorem msbFirst_ofNat_push {n : Nat} (m a : Nat) (v : BitVec n) :
    msbFirst (BitVec.ofNat (m + n) (2 ^ n * a + v.toNat)) = msbFirst (BitVec.ofNat m a) ++ msbFirst v := by
  have hlow : BitVec.ofNat n (2 ^ n * a + v.toNat) = v := by
    apply BitVec.eq_of_toNat_eq
    rw [BitVec.toNat_ofNat, Nat.mul_add_mod, Nat.mod_eq_of_lt v.isLt]
  rw [msbFirst_ofNat_add, hlow, Nat.mul_add_div (Nat.two_pow_pos n), Nat.div_eq_of_lt v.isLt, Nat.add_zero]

theorem msbFirst_zero (n : Nat) : msbFirst 0#n = List.replicate n false := by
  simp [msbFirst, List.eq_replicate_iff]

theorem true_mem_msbFirst_iff {n : Nat} (v : BitVec n) : true ∈ msbFirst v ↔ v ≠ 0 := by
  have hzero : true ∉ msbFirst v ↔ msbFirst v = msbFirst 0#n := by
    rw [msbFirst_zero, List.eq_replicate_iff, and_iff_right (msbFirst_length v)]
    exact ⟨fun h b hb => Bool.eq_false_of_not_eq_true fun ht => h (ht ▸ hb), fun h ht => absurd (h _ ht) (by decide)⟩
  rw [← not_iff_not, hzero, not_not]
  exact ⟨msbFirst_injective, congrArg _⟩

/-! ## The bits of a sequence -/

@[simp] theorem bitString_nil {n : Nat} : bitString ([] : List (BitVec n)) = [] := rfl

@[simp] theorem bitString_cons {n : Nat} (v : BitVec n) (vs : List (BitVec n)) :
    bitString (v :: vs) = msbFirst v ++ bitString vs := rfl

@[simp] theorem bitString_append {n : Nat} (us vs : List (BitVec n)) :
    bitString (us ++ vs) = bitString us ++ bitString vs :=
  List.flatMap_append

@[simp] theorem bitString_length {n : Nat} (vs : List (BitVec n)) : (bitString vs).length = n * vs.length := by
  induction vs with
  | nil => rfl
  | cons v vs ih => rw [bitString_cons, List.length_append, ih, msbFirst_length, List.length_cons, Nat.mul_succ, Nat.add_comm]

theorem bitString_injective {n : Nat} (hn : 0 < n) {us vs : List (BitVec n)} (h : bitString us = bitString vs) : us = vs := by
  have hlen : us.length = vs.length := by
    simpa [hn.ne'] using congrArg List.length h
  induction us generalizing vs with
  | nil => exact (List.eq_nil_of_length_eq_zero hlen.symm).symm
  | cons u us ih =>
    cases vs with
    | nil => cases hlen
    | cons v vs =>
      obtain ⟨hhead, htail⟩ := List.append_inj h (by simp)
      rw [msbFirst_injective hhead, ih htail (Nat.succ.inj hlen)]

/-! ## The groups of a string -/

/-- The number read from `w` bits, most significant first, has these bits. -/
theorem msbFirst_foldl (f : Nat → Bool) (w : Nat) :
    msbFirst (BitVec.ofNat w ((List.range w).foldl (fun acc i => 2 * acc + (f i).toNat) 0)) = (List.range w).map f := by
  induction w with
  | zero => rfl
  | succ w ih =>
    have hbit : msbFirst (BitVec.ofBool (f w)) = [f w] := by cases f w <;> rfl
    have hpush (a : Nat) := msbFirst_ofNat_push w a (BitVec.ofBool (f w))
    simp only [BitVec.toNat_ofBool, pow_one] at hpush
    rw [List.range_succ, List.foldl_append, List.map_append, ← ih, List.map_singleton, ← hbit]
    exact hpush _

theorem msbFirst_bitGroup (w : Nat) (bits : List Bool) (j : Nat) :
    msbFirst (bitGroup w bits j) = (List.range w).map fun i => bits.getD (w * j + i) false :=
  msbFirst_foldl (fun i => bits.getD (w * j + i) false) w

/-- Reading past the end of a string as zero. -/
theorem map_getD_range (bits : List Bool) (n : Nat) :
    (List.range n).map (bits.getD · false) = bits.take n ++ List.replicate (n - bits.length) false := by
  induction n generalizing bits with
  | zero => simp
  | succ n ih =>
    rw [List.range_succ_eq_map, List.map_cons, List.map_map]
    cases bits with
    | nil => simp [List.replicate_succ]
    | cons b bits =>
      have htail : (fun i => (b :: bits).getD i false) ∘ Nat.succ = (bits.getD · false) := rfl
      rw [htail, ih, List.getD_cons_zero, List.take_succ_cons, List.length_cons, Nat.succ_sub_succ, List.cons_append]

/-- The bits of `k` groups are the string's, zeros following its end (R63, R64). -/
theorem bitString_map_bitGroup (w : Nat) (bits : List Bool) (k : Nat) :
    bitString ((List.range k).map (bitGroup w bits)) =
      bits.take (w * k) ++ List.replicate (w * k - bits.length) false := by
  rw [← map_getD_range]
  induction k with
  | zero => rfl
  | succ k ih =>
    rw [List.range_succ, List.map_append, bitString_append, ih, List.map_singleton, bitString_cons, bitString_nil,
      List.append_nil, msbFirst_bitGroup, Nat.mul_succ, List.range_add, List.map_append, List.map_map]
    rfl

/-! ## The two regrouping functions -/

@[simp] theorem bytesToBits5_length (x : List Byte) : (bytesToBits5 x).length = (8 * x.length + 4) / 5 := by
  rw [bytesToBits5, List.length_map, List.length_range]

/-- The symbols hold the bits of the bytes and at most 4 zeros (R63). -/
theorem bitString_bytesToBits5 (x : List Byte) :
    bitString (bytesToBits5 x) = bitString x ++ List.replicate (5 * ((8 * x.length + 4) / 5) - 8 * x.length) false := by
  rw [bytesToBits5, bitString_map_bitGroup, bitString_length, List.take_of_length_le (by rw [bitString_length]; omega)]

/-- The string and the zeros after it fix the symbols: what ends in fewer than 5 zeros more is `bytesToBits5` (R63). -/
theorem eq_bytesToBits5 {x : List Byte} {y : List Sym} {pad : Nat} (hpad : pad < 5)
    (h : bitString y = bitString x ++ List.replicate pad false) : y = bytesToBits5 x := by
  have hlen := congrArg List.length h
  rw [bitString_length, List.length_append, bitString_length, List.length_replicate] at hlen
  apply bitString_injective (by decide)
  rw [h, bitString_bytesToBits5, show pad = 5 * ((8 * x.length + 4) / 5) - 8 * x.length by omega]

/-- The bytes hold the string without its leftover (R64). -/
theorem eq_map_bitGroup_of_append {x : List Byte} {y : List Sym} {rest : List Bool} (hrest : rest.length < 8)
    (h : bitString x ++ rest = bitString y) :
    x = (List.range (5 * y.length / 8)).map (bitGroup 8 (bitString y)) ∧ leftover y = rest := by
  have hlen := congrArg List.length h
  rw [List.length_append, bitString_length, bitString_length] at hlen
  have hx : 8 * (5 * y.length / 8) = (bitString x).length := by rw [bitString_length]; omega
  refine ⟨bitString_injective (by decide) ?_, ?_⟩
  · rw [bitString_map_bitGroup, hx, ← h, List.take_left, List.length_append, Nat.sub_eq_zero_of_le (Nat.le_add_right _ _),
      List.replicate_zero, List.append_nil]
  · rw [leftover, hx, ← h, List.drop_left]

/-- `bits5ToBytes` by how the string splits into whole bytes and a leftover (R64). -/
theorem bits5ToBytes_of_append {x : List Byte} {y : List Sym} {rest : List Bool} (hrest : rest.length < 8)
    (h : bitString x ++ rest = bitString y) : bits5ToBytes y = if true ∈ rest then none else some x := by
  obtain ⟨hx, hleft⟩ := eq_map_bitGroup_of_append hrest h
  rw [bits5ToBytes, hleft, ← hx]

/-! ## The laws of R72 -/

/-- The counts of R72's table: the symbols come 8 for each 5 bytes. -/
theorem padding_table (n : Nat) : (n % 5, (8 * n + 4) / 5 % 8, (5 - 8 * n % 5) % 5) ∈
    [(0, 0, 0), (1, 2, 2), (2, 4, 4), (3, 5, 1), (4, 7, 3)] := by
  have hlt : n % 5 < 5 := Nat.mod_lt n (by decide)
  have hsymbols : (8 * n + 4) / 5 = 8 * (n / 5) + (8 * (n % 5) + 4) / 5 := by omega
  have hpadding : 8 * n % 5 = 8 * (n % 5) % 5 := by omega
  rw [hsymbols, hpadding, Nat.mul_add_mod]
  interval_cases n % 5 <;> decide

/-- Settles O49: the symbols of `bytesToBits5` are the bytes' string and a padding of fewer than 8 zeros. -/
theorem regroupingLaws : Obligations.RegroupingLaws := by
  have hpad (x : List Byte) : 5 * ((8 * x.length + 4) / 5) - 8 * x.length = (5 - 8 * x.length % 5) % 5 := by omega
  have hsplit (x : List Byte) :
      bitString x ++ List.replicate ((5 - 8 * x.length % 5) % 5) false = bitString (bytesToBits5 x) := by
    rw [bitString_bytesToBits5, hpad]
  have hlt (x : List Byte) : (List.replicate ((5 - 8 * x.length % 5) % 5) false).length < 8 := by
    rw [List.length_replicate]; omega
  have hleft (x : List Byte) : leftover (bytesToBits5 x) = List.replicate ((5 - 8 * x.length % 5) % 5) false :=
    (eq_map_bitGroup_of_append (hlt x) (hsplit x)).2
  refine ⟨fun x => ?_, fun y x h => ?_, fun x => ?_, fun x => ⟨hleft x, ?_⟩, fun y hy => ⟨fun x hx => ?_, fun h => ?_⟩,
    by decide⟩
  · rw [bytesToBits5_length]
    omega
  · obtain ⟨-, hx⟩ := Option.ite_none_left_eq_some.1 h
    rw [← Option.some.inj hx, List.length_map, List.length_range]
  · rw [bits5ToBytes_of_append (hlt x) (hsplit x), if_neg (by simp)]
  · rw [hleft, List.length_replicate, bytesToBits5_length]
    exact padding_table x.length
  · rw [← hx, bytesToBits5_length] at hy
    simp only [List.mem_cons, List.not_mem_nil, or_false] at hy
    omega
  · rw [bits5ToBytes, if_neg h]
    rfl

end Sys2Proof.Machine

/-! PROOFS. The regrouping transactions (spec/41_regroup.md R70, R71) against the functions R63 and R64: no command loses or
changes a bit, so what a channel has emitted and what it holds are together the bits pushed into it. -/

namespace Sys2Proof.Machine

/-! ## The bits a channel holds -/

/-- The residue bits of the packer, oldest first (R15). -/
def Regs.packerBits (q : Regs) : List Bool :=
  msbFirst (BitVec.ofNat q.pcnt.toNat q.pres.toNat)

/-- The residue bits of the unpacker, oldest first (R16). -/
def Regs.unpackerBits (q : Regs) : List Bool :=
  msbFirst (BitVec.ofNat q.ucnt.toNat q.ures.toNat)

@[simp] theorem Regs.unpackerBits_length (q : Regs) : q.unpackerBits.length = q.ucnt.toNat :=
  msbFirst_length _

theorem Regs.packerBits_initRegroup (q : Regs) : q.initRegroup.packerBits = [] := rfl

theorem Regs.unpackerBits_initRegroup (q : Regs) : q.initRegroup.unpackerBits = [] := rfl

/-- The bits of a residue written back, in `w` bits and with its count `n`: the low `n` of the working value (R66, R68). -/
theorem msbFirst_residue {w n : Nat} (hw : n ≤ w) (h8 : n < 8) (c : Nat) :
    msbFirst (BitVec.ofNat (BitVec.ofNat 3 n).toNat (BitVec.ofNat w (c % 2 ^ n)).toNat) = msbFirst (BitVec.ofNat n c) := by
  have hcount : (BitVec.ofNat 3 n).toNat = n := Nat.mod_eq_of_lt h8
  have hres : (BitVec.ofNat w (c % 2 ^ n)).toNat = c % 2 ^ n :=
    Nat.mod_eq_of_lt ((Nat.mod_lt _ (Nat.two_pow_pos n)).trans_le (Nat.pow_le_pow_right (by decide) hw))
  rw [hcount, hres]
  exact congrArg msbFirst (BitVec.eq_of_toNat_eq (Nat.mod_mod _ _))

/-! ## The packer -/

/-- The packer's loop cuts its bits into whole groups and what stays (R66). -/
theorem bitString_packGroups (acc : BitVec 12) {fuel n : Nat} (h : n < 5 * fuel + 5) :
    bitString (packGroups acc fuel n) ++ msbFirst (BitVec.ofNat (n % 5) acc.toNat) = msbFirst (BitVec.ofNat n acc.toNat) := by
  induction fuel generalizing n with
  | zero => rw [packGroups, bitString_nil, List.nil_append, Nat.mod_eq_of_lt (by omega)]
  | succ fuel ih =>
    by_cases hn : n < 5
    · rw [packGroups_of_lt _ _ hn, bitString_nil, List.nil_append, Nat.mod_eq_of_lt hn]
    · obtain ⟨m, rfl⟩ : ∃ m, n = m + 5 := Nat.exists_eq_add_of_le' (by omega)
      rw [packGroups_add_five, bitString_cons, List.append_assoc, Nat.add_mod_right, ih (by omega), Nat.add_comm m 5,
        msbFirst_ofNat_add]

/-- `PB8` loses no bit: what it emits and what it leaves are what was held, then the byte (R66). -/
theorem bitString_packItems (q : Regs) (b : Byte) :
    bitString (packItems q b) ++ (q.pack b).packerBits = q.packerBits ++ msbFirst b := by
  have hcnt := q.pcnt.isLt
  have hn : (q.pcnt.toNat + 8) % 5 < 5 := Nat.mod_lt _ (by decide)
  have hheld : (q.pack b).packerBits = msbFirst (BitVec.ofNat ((q.pcnt.toNat + 8) % 5) (packBits q.pres b).toNat) := by
    rw [q.pack_eq b rfl, packBits_toNat]
    exact msbFirst_residue (by omega) (by omega) _
  rw [hheld, packItems, bitString_packGroups _ (by omega), packBits_toNat]
  exact msbFirst_ofNat_push _ _ b

/-- `PFL` emits what is held and fills the symbol up with zeros (R67). -/
theorem bitString_flushItems {q : Regs} (hq : q.pcnt.toNat ≤ 4) :
    ∃ pad < 5, bitString (flushItems q) = q.packerBits ++ List.replicate pad false := by
  rcases Nat.eq_zero_or_pos q.pcnt.toNat with hzero | hpos
  · have hbits : q.packerBits = [] := List.eq_nil_of_length_eq_zero ((msbFirst_length _).trans hzero)
    exact ⟨0, by decide, by rw [flushItems_of_eq_zero hzero, hbits]; rfl⟩
  · refine ⟨5 - q.pcnt.toNat, by omega, ?_⟩
    have hpush := msbFirst_ofNat_push q.pcnt.toNat q.pres.toNat 0#(5 - q.pcnt.toNat)
    rw [Nat.add_sub_of_le (by omega), BitVec.toNat_zero, Nat.add_zero, Nat.mul_comm, msbFirst_zero] at hpush
    rw [flushItems_of_pos hpos, bitString_cons, bitString_nil, List.append_nil, hpush]
    rfl

/-- The packer's commands emit the bits held, the bytes' bits and a padding of fewer than 5 zeros, and leave the packer
empty (R70). -/
theorem issueAll_pack_flush (bytes : List Byte) {s : State} (hs : s.Idle) (hp : s.regs.PackerOk) :
    ∃ (t : State) (items : List Sym), issueAll (bytes.map .pb8 ++ [.pfl]) s = some t ∧
      t.regs = s.regs.flush ∧ t.rdata = s.rdata ∧ t.out = s.out ++ items.map (·.setWidth 8) ∧
      ∃ pad < 5, bitString items = s.regs.packerBits ++ bitString bytes ++ List.replicate pad false := by
  induction bytes generalizing s with
  | nil =>
    refine ⟨_, flushItems s.regs, issueAll_of_idle (by simp [Instr.wellFormed]) hs, rfl, List.append_nil _, rfl, ?_⟩
    rw [bitString_nil, List.append_nil]
    exact bitString_flushItems hp.1
  | cons b bytes ih =>
    obtain ⟨t, items, hrun, hregs, hrdata, hout, pad, hpad, hbits⟩ :=
      ih (s := (Instr.pb8 b).after s) (hs.after _) (Instr.regsAfter_packerOk _ hp)
    refine ⟨t, packItems s.regs b ++ items, ?_, hregs, hrdata.trans (List.append_nil _), ?_, pad, hpad, ?_⟩
    · rw [List.map_cons, List.cons_append, issueAll, issue_of_idle rfl hs, Option.bind_some, hrun]
    · rw [hout, Instr.after_out, Instr.items, List.map_append, List.append_assoc]
    · rw [bitString_append, hbits, Instr.after_regs, Instr.regsAfter, bitString_cons]
      simp only [← List.append_assoc, bitString_packItems]

/-! ## The unpacker -/

/-- `US5` loses no bit: what it emits and what it leaves are what was held, then the symbol (R68). -/
theorem bitString_unpackItems (q : Regs) (v : Sym) :
    bitString (unpackItems q v) ++ (q.unpack v).unpackerBits = q.unpackerBits ++ msbFirst v := by
  have hcnt := q.ucnt.isLt
  have hpush : msbFirst (BitVec.ofNat (q.ucnt.toNat + 5) (32 * q.ures.toNat + v.toNat)) = q.unpackerBits ++ msbFirst v :=
    msbFirst_ofNat_push _ _ v
  have hheld {n : Nat} (hn : (if 3 ≤ q.ucnt.toNat then q.ucnt.toNat - 3 else q.ucnt.toNat + 5) = n) :
      (q.unpack v).unpackerBits = msbFirst (BitVec.ofNat n (32 * q.ures.toNat + v.toNat)) := by
    have hlt : n < 8 := by split at hn <;> omega
    rw [q.unpack_eq v hn]
    exact msbFirst_residue (by omega) hlt _
  rw [← hpush]
  by_cases h3 : q.ucnt.toNat < 3
  · rw [unpackItems_of_lt_three h3, hheld (if_neg (by omega)), bitString_nil, List.nil_append]
  · obtain ⟨n, hn⟩ : ∃ n, q.ucnt.toNat = n + 3 := Nat.exists_eq_add_of_le' (by omega)
    have hsum : q.ucnt.toNat + 5 = 8 + n := by omega
    rw [unpackItems_of_eq_add_three hn, hheld (n := n) ((if_pos (by omega)).trans (by omega)), bitString_cons, bitString_nil,
      List.append_nil, hsum, msbFirst_ofNat_add]

/-- The leftover has a bit set exactly when the residue is not zero (R69). -/
theorem Regs.true_mem_unpackerBits_iff {q : Regs} (hq : q.UnpackerOk) : true ∈ q.unpackerBits ↔ q.ures ≠ 0 := by
  rw [Regs.unpackerBits, true_mem_msbFirst_iff, ne_eq, ne_eq, ← BitVec.toNat_inj, ← BitVec.toNat_inj, BitVec.toNat_ofNat,
    Nat.mod_eq_of_lt hq]
  rfl

/-- Bit 1 of the read view `STATUS` is `PADERR` (R22). -/
theorem Regs.status_getLsbD_one (q : Regs) : q.status.getLsbD 1 = decide (q.padErr = 1) := by
  have hbit : ∀ c p h : BitVec 1, ((c.setWidth 32 <<< 2) ||| (p.setWidth 32 <<< 1) ||| h.setWidth 32 : BitVec 32).getLsbD 1 =
      decide (p = 1) := by decide
  exact hbit q.cmdErr q.padErr q.hrpErr

/-- The unpacker's commands cut the bits held and the symbols' bits into the bytes they emit and a leftover, set `PADERR` when
the leftover has a bit set, and leave the unpacker empty (R71). -/
theorem issueAll_unpack_end (symbols : List Sym) {s : State} (hs : s.Idle) (hu : s.regs.UnpackerOk) :
    ∃ (t : State) (items : List Byte) (rest : List Bool), issueAll (symbols.map .us5 ++ [.uend, .rd 3]) s = some t ∧
      t.regs = { s.regs with padErr := if true ∈ rest then 1 else s.regs.padErr, ures := 0, ucnt := 0 } ∧
      t.rdata = s.rdata ++ [t.regs.status] ∧ t.out = s.out ++ items ∧
      rest.length < 8 ∧ bitString items ++ rest = s.regs.unpackerBits ++ bitString symbols := by
  induction symbols generalizing s with
  | nil =>
    refine ⟨_, [], s.regs.unpackerBits, issueAll_of_idle (by simp [Instr.wellFormed]) hs, ?_, ?_, ?_, ?_, ?_⟩
    · simp only [Regs.true_mem_unpackerBits_iff hu]
      rfl
    · simp [Instr.words, Instr.regsAfter, Regs.view]
    · simp [Instr.items]
    · rw [Regs.unpackerBits_length]
      exact s.regs.ucnt.isLt
    · rw [bitString_nil, bitString_nil, List.nil_append, List.append_nil]
  | cons v symbols ih =>
    obtain ⟨t, items, rest, hrun, hregs, hrdata, hout, hrest, hbits⟩ :=
      ih (s := (Instr.us5 v).after s) (hs.after _) (Instr.regsAfter_unpackerOk _ hu)
    refine ⟨t, unpackItems s.regs v ++ items, rest, ?_, hregs, ?_, ?_, hrest, ?_⟩
    · rw [List.map_cons, List.cons_append, issueAll, issue_of_idle rfl hs, Option.bind_some, hrun]
    · rw [hrdata, Instr.after_rdata, Instr.words, List.append_nil]
    · rw [hout, Instr.after_out, Instr.items]
      simp
    · rw [bitString_append, List.append_assoc, hbits, Instr.after_regs, Instr.regsAfter, bitString_cons]
      simp only [← List.append_assoc, bitString_unpackItems]

/-! ## The obligations on transactions -/

/-- Settles O47: the symbols emitted hold the bytes' string and fewer than 5 zeros, and that makes them `bytesToBits5`. -/
theorem packerTransactionComputesBytesToBits5 : Obligations.PackerTransactionComputesBytesToBits5 := by
  intro bytes s hs
  obtain ⟨t, items, hrun, hregs, hrdata, hout, pad, hpad, hbits⟩ :=
    issueAll_pack_flush bytes (s := Instr.rinit.after s) (hs.after _) ⟨Nat.zero_le _, Nat.one_pos⟩
  rw [Instr.after_regs, Instr.regsAfter, Regs.packerBits_initRegroup, List.nil_append] at hbits
  refine ⟨t, ?_, ?_, hrdata.trans (List.append_nil _), hregs⟩
  · rw [bytesToBits5Commands, List.append_assoc, List.singleton_append, issueAll, issue_of_idle rfl hs, Option.bind_some, hrun]
  · rw [hout, eq_bytesToBits5 hpad hbits, Instr.after_out, Instr.items, List.append_nil]

/-- Settles O48: the bytes emitted and the leftover split the symbols' string, as `bits5ToBytes_of_append` asks. -/
theorem unpackerTransactionComputesBits5ToBytes : Obligations.UnpackerTransactionComputesBits5ToBytes := by
  intro symbols s hs
  obtain ⟨t, items, rest, hrun, hregs, hrdata, hout, hrest, hbits⟩ :=
    issueAll_unpack_end symbols (s := Instr.rinit.after s) (hs.after _) Nat.one_pos
  rw [Instr.after_regs, Instr.regsAfter, Regs.unpackerBits_initRegroup, List.nil_append] at hbits
  have hbit : t.regs.status.getLsbD 1 = decide (true ∈ rest) := by
    rw [Regs.status_getLsbD_one, hregs]
    by_cases h : true ∈ rest <;> simp [h, Instr.regsAfter]
  refine ⟨t, t.regs.status, items, ?_, ?_, ?_, ?_, ?_⟩
  · rw [bits5ToBytesCommands, List.append_assoc, List.singleton_append, issueAll, issue_of_idle rfl hs, Option.bind_some, hrun]
  · rw [hrdata, Instr.after_rdata, Instr.words, List.append_nil]
  · rw [hout, Instr.after_out, Instr.items, List.append_nil]
  · rw [bits5ToBytes_of_append hrest hbits, hbit]
    by_cases h : true ∈ rest <;> simp [h]
  · simp only [hbit, decide_eq_true_eq]
    exact hregs

end Sys2Proof.Machine

/-! PROOFS. The accumulator step (spec/42_checksum.md R77): by its two parts, the shift and the feedback; linear over XOR, and
one-to-one in the accumulator and in the symbol. -/

namespace Sys2Proof.Machine

/-! ## The two parts of the step -/

/-- A field of a word is a quotient, modulo the field's width. -/
theorem toNat_extractLsb'_eq_div {n : Nat} (x : BitVec n) (k m : Nat) :
    (x.extractLsb' k m).toNat = x.toNat / 2 ^ k % 2 ^ m := by
  rw [BitVec.extractLsb'_toNat, Nat.shiftRight_eq_div_pow]

/-- The accumulator moved up by one symbol, its top bits dropped, and the symbol below it: `polystep` before the feedback
(R77). -/
def shiftIn (a : AccWord) (v : Sym) : AccWord :=
  ((a.extractLsb' 0 25).setWidth 30 <<< 5) ||| v.setWidth 30

/-- What `polystep` feeds back for the five outgoing bits (R77). -/
def feedbackOf (top : BitVec 5) : AccWord :=
  feedback top Config.gen 0 0

theorem polystep_eq_shiftIn_xor (a : AccWord) (v : Sym) : polystep a v = shiftIn a v ^^^ feedbackOf (a.extractLsb' 25 5) :=
  feedback_xor _ _ _ _

theorem shiftIn_toNat (a : AccWord) (v : Sym) : (shiftIn a v).toNat = a.toNat * 32 % 2 ^ 30 + v.toNat := by
  have hv := v.isLt
  have hshift : ((a.extractLsb' 0 25).setWidth 30 <<< 5).toNat = (a.toNat % 2 ^ 25) <<< 5 := by
    simp only [BitVec.toNat_shiftLeft, BitVec.toNat_setWidth, toNat_extractLsb'_eq_div, Nat.shiftLeft_eq]
    omega
  rw [shiftIn, BitVec.toNat_or, hshift, BitVec.toNat_setWidth_of_le (by decide), ← Nat.shiftLeft_add_eq_or_of_lt hv,
    Nat.shiftLeft_eq]
  omega

theorem shiftIn_eq_ofNat (a : AccWord) (v : Sym) : shiftIn a v = BitVec.ofNat 30 (a.toNat * 32 % 2 ^ 30 + v.toNat) := by
  rw [← shiftIn_toNat, BitVec.ofNat_toNat, BitVec.setWidth_eq]

theorem shiftIn_xor (a a' : AccWord) (v v' : Sym) : shiftIn (a ^^^ a') (v ^^^ v') = shiftIn a v ^^^ shiftIn a' v' := by
  ext i hi
  by_cases h5 : i < 5
  · simp [shiftIn, h5]
  · simp [shiftIn, h5, BitVec.getLsbD_of_ge _ i (Nat.le_of_not_lt h5), show i - 5 < 25 by omega]

theorem feedback_nil (top : BitVec 5) (i : Nat) (t : AccWord) : feedback top [] i t = t := rfl

theorem feedback_cons (top : BitVec 5) (g : AccWord) (gs : List AccWord) (i : Nat) (t : AccWord) :
    feedback top (g :: gs) i t = feedback top gs (i + 1) (t ^^^ if top.getLsbD i then g else 0) := by
  rw [feedback]
  split
  · rfl
  · rw [BitVec.ofNat_eq_ofNat, BitVec.xor_zero]

/-- A constant is fed back for two XORed bits exactly when it is fed back for one of them alone. -/
theorem ite_xor_eq (b b' : Bool) (g : AccWord) :
    (if b ^^ b' then g else 0) = (if b then g else 0) ^^^ (if b' then g else 0) := by
  cases b <;> cases b' <;> simp

theorem feedback_linear (top top' : BitVec 5) (gs : List AccWord) (i : Nat) (t t' : AccWord) :
    feedback (top ^^^ top') gs i (t ^^^ t') = feedback top gs i t ^^^ feedback top' gs i t' := by
  induction gs generalizing i t t' with
  | nil => rfl
  | cons g gs ih =>
    simp only [feedback_cons, ← ih, BitVec.getLsbD_xor, ite_xor_eq]
    congr 1
    ac_rfl

theorem feedbackOf_zero : feedbackOf 0#5 = 0#30 := feedback_zero _ _ _

theorem feedbackOf_xor (top top' : BitVec 5) : feedbackOf (top ^^^ top') = feedbackOf top ^^^ feedbackOf top' := by
  rw [feedbackOf, ← BitVec.xor_zero (x := (0 : AccWord)), feedback_linear]
  rfl

/-- The low five bits of the five constants are independent: different outgoing bits are fed back differently. -/
theorem eq_zero_of_feedbackOf_low (top : BitVec 5) (h : (feedbackOf top).extractLsb' 0 5 = 0#5) : top = 0#5 := by
  revert top
  decide

/-! ## Linear over XOR -/

/-- Settles O40: both parts of the step are linear. -/
theorem polystepIsLinear : Obligations.PolystepIsLinear := by
  intro a a' v v'
  simp only [polystep_eq_shiftIn_xor, shiftIn_xor, BitVec.extractLsb'_xor, feedbackOf_xor]
  ac_rfl

/-- Settles O39: the feedback runs over the five constants one after another. -/
theorem polystepIsTheFeedbackShift : Obligations.PolystepIsTheFeedbackShift := by
  intro a v
  have hbit {i : Nat} (hi : i < 5) : (a.extractLsb' 25 5).getLsbD i = a.getLsbD (25 + i) := by simp [hi]
  have hstep : polystep a v = feedback (a.extractLsb' 25 5) Config.gen 0 (shiftIn a v) := rfl
  simp only [hstep, shiftIn_eq_ofNat, Config.gen, feedback_cons, feedback_nil, hbit, Nat.reduceAdd, Nat.reduceLT]

/-! ## One-to-one -/

theorem extractLsb'_shiftIn (a : AccWord) (v : Sym) : (shiftIn a v).extractLsb' 0 5 = v := by
  apply BitVec.eq_of_toNat_eq
  have hv := v.isLt
  rw [toNat_extractLsb'_eq_div, shiftIn_toNat]
  omega

/-- The step of a symbol loses nothing of the accumulator: its low five bits tell the outgoing bits, and the rest is a shift
(R77). -/
theorem eq_zero_of_polystep_zero {a : AccWord} (h : polystep a 0#5 = 0#30) : a = 0#30 := by
  rw [polystep_eq_shiftIn_xor, BitVec.xor_eq_zero_iff] at h
  have htop : a.extractLsb' 25 5 = 0#5 := eq_zero_of_feedbackOf_low _ (by rw [← h]; exact extractLsb'_shiftIn a 0#5)
  have hhigh := congrArg BitVec.toNat htop
  have hlow := congrArg BitVec.toNat h
  rw [toNat_extractLsb'_eq_div, BitVec.toNat_zero] at hhigh
  rw [shiftIn_toNat, htop, feedbackOf_zero, BitVec.toNat_zero, BitVec.toNat_zero] at hlow
  have hlt := a.isLt
  apply BitVec.eq_of_toNat_eq
  rw [BitVec.toNat_zero]
  omega

/-- Two accumulators that a symbol brings to the same value are the same (R77). -/
theorem polystep_injective_acc (v : Sym) : Function.Injective (polystep · v) := by
  intro a b h
  have hzero : polystep (a ^^^ b) 0#5 = 0#30 := by
    rw [← BitVec.xor_self (x := v), polystepIsLinear, BitVec.xor_eq_zero_iff]
    exact h
  rw [← BitVec.xor_eq_zero_iff]
  exact eq_zero_of_polystep_zero hzero

theorem polystep_injective_symbol (a : AccWord) : Function.Injective (polystep a) := by
  intro x y h
  simp only [polystep_eq_shiftIn_xor, BitVec.xor_left_inj] at h
  have hnat := congrArg BitVec.toNat h
  rw [shiftIn_toNat, shiftIn_toNat] at hnat
  exact BitVec.eq_of_toNat_eq (Nat.add_left_cancel hnat)

/-! ## Sequences of symbols -/

theorem polysteps_injective_acc (vs : List Sym) : Function.Injective (polysteps · vs) := by
  induction vs with
  | nil => exact Function.injective_id
  | cons v vs ih => exact ih.comp (polystep_injective_acc v)

/-- What an accumulator carries through a sequence does not depend on the symbols, and what the symbols add does not depend on
the accumulator (R89 law 4). -/
theorem polysteps_xor (a b : AccWord) (vs : List Sym) :
    polysteps (a ^^^ b) vs = polysteps a (List.replicate vs.length 0) ^^^ polysteps b vs := by
  induction vs generalizing a b with
  | nil => rfl
  | cons v vs ih =>
    have hstep : polystep (a ^^^ b) v = polystep a 0#5 ^^^ polystep b v := by
      rw [← polystepIsLinear, BitVec.zero_xor]
    rw [polysteps_cons, hstep, ih]
    rfl

/-- With the top five bits clear nothing is fed back: the step only shifts (R77, R84). -/
theorem polystep_toNat_of_lt {a : AccWord} (ha : a.toNat < 2 ^ 25) (v : Sym) :
    (polystep a v).toNat = 2 ^ 5 * a.toNat + v.toNat := by
  have htop : a.extractLsb' 25 5 = 0#5 := by
    apply BitVec.eq_of_toNat_eq
    rw [toNat_extractLsb'_eq_div, Nat.div_eq_of_lt ha, Nat.zero_mod, BitVec.toNat_zero]
  rw [polystep_eq_shiftIn_xor, htop, feedbackOf_zero, BitVec.xor_zero, shiftIn_toNat]
  omega

/-- The number that symbols spell in base 32 behind a number, most significant first. `polysteps_toNat` ties it to the step. -/
def spelled (n : Nat) (vs : List Sym) : Nat :=
  vs.foldl (fun n v => 2 ^ 5 * n + v.toNat) n

/-- As long as no symbol leaves at the top, absorbing is writing the symbols behind the accumulator (R84). -/
theorem polysteps_toNat {a : AccWord} {vs : List Sym} (h : (a.toNat + 1) * 32 ^ vs.length ≤ 2 ^ 30) :
    (polysteps a vs).toNat = spelled a.toNat vs := by
  induction vs generalizing a with
  | nil => rfl
  | cons v vs ih =>
    have hv := v.isLt
    have hpos : 0 < 32 ^ vs.length := Nat.pow_pos (by decide)
    rw [List.length_cons, Nat.pow_succ', ← Nat.mul_assoc] at h
    have ha : a.toNat < 2 ^ 25 := by
      have := (Nat.le_mul_of_pos_right _ hpos).trans h
      omega
    have hstep := polystep_toNat_of_lt ha v
    have hroom : ((polystep a v).toNat + 1) * 32 ^ vs.length ≤ 2 ^ 30 :=
      (Nat.mul_le_mul_right _ (by omega)).trans h
    rw [polysteps_cons, ih hroom, hstep]
    rfl

theorem spelled_splitSix (t : AccWord) : spelled 0 (splitSix t) = t.toNat := by
  have hlt := t.isLt
  simp only [spelled, splitSix, List.foldl_cons, List.foldl_nil, toNat_extractLsb'_eq_div]
  omega

/-- Six symbols absorbed from 0 are the value they were split from (R85). -/
theorem polysteps_zero_splitSix (t : AccWord) : polysteps 0#30 (splitSix t) = t := by
  have hroom : ((0#30).toNat + 1) * 32 ^ (splitSix t).length ≤ 2 ^ 30 := by simp [splitSix]
  exact BitVec.eq_of_toNat_eq ((polysteps_toNat hroom).trans (spelled_splitSix t))

/-- Absorbing the symbols `CFIN` emits gives the variant's constant (R89 law 1). -/
theorem polysteps_checksumSymbols (a : AccWord) (v : BitVec 1) : polysteps a (checksumSymbols a v) = variantConst v := by
  calc polysteps a (checksumSymbols a v)
    _ = polysteps (a ^^^ 0#30) (checksumSymbols a v) := by rw [BitVec.xor_zero]
    _ = polysteps a (List.replicate 6 0) ^^^ polysteps 0#30 (checksumSymbols a v) := polysteps_xor _ _ _
    _ = polysteps a (List.replicate 6 0) ^^^ (polysteps a (List.replicate 6 0) ^^^ variantConst v) := by
      rw [checksumSymbols, polysteps_zero_splitSix, Config.ckLen]
    _ = variantConst v := by rw [← BitVec.xor_assoc, BitVec.xor_self, BitVec.zero_xor]

end Sys2Proof.Machine

/-! PROOFS. The checksum commands (spec/42_checksum.md), each on its own: the words that spell it and the state it leaves. -/

namespace Sys2Proof

/-! ## The words of the checksum commands -/

theorem encode_cvsel (v : BitVec 1) : encode (.cvsel v) = 0x5000 ||| v.setWidth 16 := by
  revert v
  decide

theorem encode_csym (v : Sym) : encode (.csym v) = 0x8000 ||| v.setWidth 16 := by
  revert v
  decide

end Sys2Proof

namespace Sys2Proof.Machine

/-! ## One HRP character -/

theorem fold_toNat (c : Byte) : (fold c).toNat = if 65 ≤ c.toNat ∧ c.toNat ≤ 90 then c.toNat + 32 else c.toNat := by
  unfold fold
  split
  · rw [BitVec.toNat_add]
    change (c.toNat + 32) % 256 = c.toNat + 32
    omega
  · rfl

@[simp] theorem fold_fold (c : Byte) : fold (fold c) = fold c := by
  have hout : ¬ (65 ≤ (fold c).toNat ∧ (fold c).toNat ≤ 90) := by
    rw [fold_toNat]
    split <;> omega
  exact if_neg hout

/-- Settles O41: by the value of the folded code. -/
theorem foldLowersLetters : Obligations.FoldLowersLetters := by
  refine ⟨fold_toNat, fold_fold, fun c hlow hhigh => ?_⟩
  rw [fold_toNat]
  split <;> omega

/-- The symbol of `CHRPH` (R82), as a number. -/
theorem hrpHigh_eq_ofNat (c : Byte) :
    hrpHigh c = BitVec.ofNat 5 ((if 65 ≤ c.toNat ∧ c.toNat ≤ 90 then c.toNat + 32 else c.toNat) / 32) := by
  have hlt := (fold c).isLt
  apply BitVec.eq_of_toNat_eq
  rw [← fold_toNat, hrpHigh, BitVec.toNat_setWidth, toNat_extractLsb'_eq_div, BitVec.toNat_ofNat]
  omega

/-- The symbol of `CHRPL` (R83), as a number: folding adds 32, which the low five bits do not see. -/
theorem hrpLow_eq_ofNat (c : Byte) : hrpLow c = BitVec.ofNat 5 (c.toNat % 32) := by
  apply BitVec.eq_of_toNat_eq
  rw [hrpLow, toNat_extractLsb'_eq_div, fold_toNat, BitVec.toNat_ofNat]
  split <;> omega

theorem hrpErrAfter_eq_ite (old : BitVec 1) (c : Byte) :
    hrpErrAfter old c = if c.toNat < 33 ∨ 126 < c.toNat then 1 else old := by
  simp only [hrpErrAfter, hrpBad_iff]

/-! ## The symbols of `CFIN` -/

/-- The six groups as items of `OUT` (R85, R31). -/
theorem splitSix_map_setWidth (t : AccWord) :
    (splitSix t).map (·.setWidth 8) =
      [t.toNat / 2 ^ 25, t.toNat / 2 ^ 20 % 32, t.toNat / 2 ^ 15 % 32, t.toNat / 2 ^ 10 % 32, t.toNat / 2 ^ 5 % 32,
        t.toNat % 32].map (BitVec.ofNat 8) := by
  have hlt := t.isLt
  have hgroup (k : Nat) : (t.extractLsb' k 5).setWidth 8 = BitVec.ofNat 8 (t.toNat / 2 ^ k % 32) := by
    simp only [← BitVec.ofNat_toNat, toNat_extractLsb'_eq_div, Nat.reducePow]
  have hfirst : t.toNat / 2 ^ 25 % 32 = t.toNat / 2 ^ 25 := Nat.mod_eq_of_lt (by omega)
  simp only [splitSix, List.map_cons, List.map_nil, hgroup, hfirst, Nat.pow_zero, Nat.div_one]

/-! ## The obligations on single commands -/

/-- Settles O18: `CINIT` is a silent command. -/
theorem cinitStartsAChecksum : Obligations.CinitStartsAChecksum :=
  ⟨(decode_eq_command_iff _ _).2 ⟨rfl, rfl⟩, fun _ hop hne => decode_eq_refuse_of_shapeN (by decide) hop hne,
    fun _ => exec_of_silent rfl rfl rfl⟩

/-- Settles O19: `CVSEL` is a silent command, with a reserved field in its operand. -/
theorem cvselSelectsTheVariant : Obligations.CvselSelectsTheVariant := by
  obtain ⟨-, hillFld, -⟩ := refusedWordsByReason
  refine ⟨fun v => (decode_eq_command_iff _ _).2 ⟨rfl, encode_cvsel v⟩, fun w hop hfield => ?_,
    fun _ _ => exec_of_silent rfl rfl rfl⟩
  rw [hillFld, hop]
  simpa using hfield

/-- Settles O20: `CHRPH` is a silent command, and the high three bits are a quotient of the folded code. -/
theorem chrphAbsorbsTheHighPart : Obligations.ChrphAbsorbsTheHighPart := by
  refine ⟨fun c => (decode_eq_command_iff _ _).2 ⟨rfl, encode_chrph c⟩,
    fun w hop hz => decode_of_z_ne_zero w (by rw [hop]; decide) hz, fun c s => ?_⟩
  rw [exec_of_silent rfl rfl rfl, ← hrpHigh_eq_ofNat, ← hrpErrAfter_eq_ite]
  rfl

/-- Settles O21: `CHRPL` is a silent command, and folding does not reach the low five bits. -/
theorem chrplAbsorbsTheLowPart : Obligations.ChrplAbsorbsTheLowPart := by
  refine ⟨fun c => (decode_eq_command_iff _ _).2 ⟨rfl, encode_chrpl c⟩,
    fun w hop hz => decode_of_z_ne_zero w (by rw [hop]; decide) hz, fun c s => ?_⟩
  rw [exec_of_silent rfl rfl rfl, ← hrpLow_eq_ofNat, ← hrpErrAfter_eq_ite]
  rfl

/-- Settles O22: `CSYM` is a silent command, and five symbols from 1 leave nothing at the top to feed back. -/
theorem csymAbsorbsTheSymbol : Obligations.CsymAbsorbsTheSymbol := by
  obtain ⟨-, hillFld, -⟩ := refusedWordsByReason
  refine ⟨fun v => (decode_eq_command_iff _ _).2 ⟨rfl, encode_csym v⟩, fun w hop hfield => ?_,
    fun _ _ => exec_of_silent rfl rfl rfl, fun v1 v2 v3 v4 v5 => ?_⟩
  · rw [hillFld, hop]
    simpa using hfield
  · have hspelled : (polysteps 1 [v1, v2, v3, v4, v5]).toNat = spelled 1 [v1, v2, v3, v4, v5] :=
      polysteps_toNat (show (1 + 1) * 32 ^ 5 ≤ 2 ^ 30 by decide)
    simp only [polysteps_cons, polysteps_nil, spelled, List.foldl_cons, List.foldl_nil] at hspelled
    omega

/-- Settles O23: `CFIN` leaves the registers as they are and emits the groups of `splitSix`. -/
theorem cfinEmitsTheChecksum : Obligations.CfinEmitsTheChecksum := by
  refine ⟨(decode_eq_command_iff _ _).2 ⟨rfl, rfl⟩, fun _ hop hne => decode_eq_refuse_of_shapeN (by decide) hop hne,
    fun s => ?_⟩
  rw [exec_of_no_word rfl rfl, Instr.items, checksumSymbols, splitSix_map_setWidth]
  rfl

/-- Settles O24: `CVFY` is a silent command. -/
theorem cvfyReportsTheMatchingVariant : Obligations.CvfyReportsTheMatchingVariant :=
  ⟨(decode_eq_command_iff _ _).2 ⟨rfl, rfl⟩, fun _ hop hne => decode_eq_refuse_of_shapeN (by decide) hop hne,
    fun _ => exec_of_silent rfl rfl rfl⟩

end Sys2Proof.Machine

/-! PROOFS. The checksum transactions (spec/42_checksum.md R87 to R89) against the functions R74, R75 and R79: the commands that
only write registers, the registers an HRP and a symbol sequence leave, and the laws of the checksum. -/

namespace Sys2Proof

open Machine

/-- A well-formed command that appends nothing to `OUT` and delivers nothing on `RDATA`. -/
def Instr.Silent (i : Instr) : Prop :=
  i.wellFormed = true ∧ (∀ q, i.items q = []) ∧ ∀ q, i.words q = []

@[simp] theorem Instr.silent_cinit : Instr.Silent .cinit := ⟨rfl, fun _ => rfl, fun _ => rfl⟩
@[simp] theorem Instr.silent_cvsel (v : BitVec 1) : (Instr.cvsel v).Silent := ⟨rfl, fun _ => rfl, fun _ => rfl⟩
@[simp] theorem Instr.silent_chrph (c : Byte) : (Instr.chrph c).Silent := ⟨rfl, fun _ => rfl, fun _ => rfl⟩
@[simp] theorem Instr.silent_chrpl (c : Byte) : (Instr.chrpl c).Silent := ⟨rfl, fun _ => rfl, fun _ => rfl⟩
@[simp] theorem Instr.silent_csym (v : Sym) : (Instr.csym v).Silent := ⟨rfl, fun _ => rfl, fun _ => rfl⟩
@[simp] theorem Instr.silent_cvfy : Instr.Silent .cvfy := ⟨rfl, fun _ => rfl, fun _ => rfl⟩

/-- A sequence of silent commands. -/
def AllSilent (is : List Instr) : Prop :=
  ∀ i ∈ is, i.Silent

@[simp] theorem allSilent_nil : AllSilent [] := nofun

@[simp] theorem allSilent_cons (i : Instr) (is : List Instr) : AllSilent (i :: is) ↔ i.Silent ∧ AllSilent is :=
  List.forall_mem_cons

@[simp] theorem allSilent_append (is js : List Instr) : AllSilent (is ++ js) ↔ AllSilent is ∧ AllSilent js :=
  List.forall_mem_append

theorem allSilent_map {α : Type} {f : α → Instr} (hf : ∀ x, (f x).Silent) (xs : List α) : AllSilent (xs.map f) :=
  List.forall_mem_map.2 fun x _ => hf x

@[simp] theorem allSilent_chrp (hrp : List Byte) : AllSilent (chrp hrp) := by
  simp [chrp, csep, allSilent_map Instr.silent_chrph, allSilent_map Instr.silent_chrpl]

@[simp] theorem allSilent_cdata (symbols : List Sym) : AllSilent (cdata symbols) :=
  allSilent_map Instr.silent_csym symbols

/-- The registers a sequence of commands leaves. `issueAll_of_silent` ties it to the engine. -/
def regsAfterAll (is : List Instr) (q : Regs) : Regs :=
  is.foldl (fun q i => i.regsAfter q) q

@[simp] theorem regsAfterAll_nil (q : Regs) : regsAfterAll [] q = q := rfl

@[simp] theorem regsAfterAll_cons (i : Instr) (is : List Instr) (q : Regs) :
    regsAfterAll (i :: is) q = regsAfterAll is (i.regsAfter q) := rfl

@[simp] theorem regsAfterAll_append (is js : List Instr) (q : Regs) :
    regsAfterAll (is ++ js) q = regsAfterAll js (regsAfterAll is q) := List.foldl_append

end Sys2Proof

namespace Sys2Proof.Machine

/-! ## Issuing silent commands -/

theorem issueAll_append (is js : List Instr) (s : State) : issueAll (is ++ js) s = (issueAll is s).bind (issueAll js) := by
  induction is generalizing s with
  | nil => rfl
  | cons i is ih => simp only [List.cons_append, issueAll, Option.bind_assoc, ih]

/-- Silent commands issued to an idle engine change its registers and leave `OUT` and `RDATA`. -/
theorem issueAll_of_silent {is : List Instr} {s : State} (hi : AllSilent is) (hs : s.Idle) :
    ∃ t, issueAll is s = some t ∧ t.Idle ∧ t.regs = regsAfterAll is s.regs ∧ t.out = s.out ∧ t.rdata = s.rdata := by
  induction is generalizing s with
  | nil => exact ⟨s, rfl, hs, rfl, rfl, rfl⟩
  | cons i is ih =>
    obtain ⟨⟨hwf, hitems, hwords⟩, hrest⟩ := (allSilent_cons i is).1 hi
    obtain ⟨t, hrun, hidle, hregs, hout, hrdata⟩ := ih hrest (hs.after i)
    refine ⟨t, ?_, hidle, hregs, ?_, ?_⟩
    · rw [issueAll, issue_of_idle hwf hs, Option.bind_some, hrun]
    · rw [hout, Instr.after_out, hitems, List.append_nil]
    · rw [hrdata, Instr.after_rdata, hwords, List.append_nil]

/-- Silent commands and one well-formed command after them: the last one finds the registers the others leave. -/
theorem issueAll_silent_append_singleton {is : List Instr} {j : Instr} {s : State} (hi : AllSilent is)
    (hj : j.wellFormed = true) (hs : s.Idle) :
    ∃ t, issueAll (is ++ [j]) s = some t ∧ t.regs = j.regsAfter (regsAfterAll is s.regs) ∧
      t.out = s.out ++ j.items (regsAfterAll is s.regs) ∧ t.rdata = s.rdata ++ j.words (regsAfterAll is s.regs) := by
  obtain ⟨t, hrun, hidle, hregs, hout, hrdata⟩ := issueAll_of_silent hi hs
  refine ⟨j.after t, ?_, ?_, ?_, ?_⟩
  · rw [issueAll_append, hrun, Option.bind_some, issueAll, issue_of_idle hj hidle]
    rfl
  · rw [Instr.after_regs, hregs]
  · rw [Instr.after_out, hregs, hout]
  · rw [Instr.after_rdata, hregs, hrdata]

/-! ## The registers an HRP and a symbol sequence leave -/

theorem regsAfterAll_cdata (symbols : List Sym) (q : Regs) :
    regsAfterAll (cdata symbols) q = { q with acc := polysteps q.acc symbols } := by
  induction symbols generalizing q with
  | nil => rfl
  | cons v symbols ih => exact ih (q.absorb v)

/-- A range check after another one: `HRPERR` is set when either sets it (R19). -/
theorem ite_hrpErrAfter (p : Bool) (old : BitVec 1) (c : Byte) :
    (if p then 1 else hrpErrAfter old c) = if hrpBad c || p then 1 else old := by
  cases p <;> simp [hrpErrAfter]

/-- One pass over the HRP, by commands that check each character and absorb one symbol of it (R82, R83). -/
theorem regsAfterAll_map_chars {f : Byte → Instr} {g : Byte → Sym}
    (hf : ∀ c q, (f c).regsAfter q = (q.checkHrp c).absorb (g c)) (hrp : List Byte) (q : Regs) :
    regsAfterAll (hrp.map f) q =
      { q with acc := polysteps q.acc (hrp.map g), hrpErr := if hrp.any hrpBad then 1 else q.hrpErr } := by
  induction hrp generalizing q with
  | nil => rfl
  | cons c hrp ih =>
    rw [List.map_cons, regsAfterAll_cons, ih, hf, List.map_cons, polysteps_cons, List.any_cons, ← ite_hrpErrAfter]
    rfl

/-- The commands of the expanded HRP absorb its symbols and check its characters (R56, R79). -/
theorem regsAfterAll_chrp (hrp : List Byte) (q : Regs) :
    regsAfterAll (chrp hrp) q =
      { q with acc := polysteps q.acc (expand hrp), hrpErr := if hrp.any hrpBad then 1 else q.hrpErr } := by
  rw [chrp, regsAfterAll_append, regsAfterAll_append, regsAfterAll_map_chars (f := .chrph) (g := hrpHigh) (fun _ _ => rfl),
    regsAfterAll_map_chars (f := .chrpl) (g := hrpLow) (fun _ _ => rfl), expand, polysteps_append, polysteps_append]
  cases hrp.any hrpBad <;> rfl

theorem regsAfterAll_chrp_cdata (hrp : List Byte) (data : List Sym) (q : Regs) :
    regsAfterAll (chrp hrp ++ cdata data) q =
      { q with acc := polysteps q.acc (expand hrp ++ data), hrpErr := if hrp.any hrpBad then 1 else q.hrpErr } := by
  rw [regsAfterAll_append, regsAfterAll_chrp, regsAfterAll_cdata, polysteps_append]

/-! ## The two functions -/

/-- `CFIN` after the HRP and the data emits the checksum of the pure function (R74, R85). -/
theorem checksumSymbols_polymod (hrp : List Byte) (data : List Sym) (variant : BitVec 1) :
    checksumSymbols (polymod (expand hrp ++ data)) variant = checksum hrp data variant := by
  rw [checksumSymbols, checksum, polymod, polymod, polysteps_append _ (expand hrp ++ data)]

/-- A sequence verifies as the variant whose constant its `polymod` is (R75). -/
theorem verifyChecksum_eq_some_iff (hrp : List Byte) (data : List Sym) (v : BitVec 1) :
    verifyChecksum hrp data = some v ↔ polymod (expand hrp ++ data) = variantConst v := by
  have hne : variantConst 0 ≠ variantConst 1 := by decide
  obtain rfl | rfl : v = 0 ∨ v = 1 := by revert v; decide
  · rw [verifyChecksum]
    split_ifs with h0 h1
    · exact iff_of_true rfl h0
    · exact iff_of_false (by decide) h0
    · exact iff_of_false nofun h0
  · rw [verifyChecksum]
    split_ifs with h0 h1
    · exact iff_of_false (by decide) (h0.trans_ne hne)
    · exact iff_of_true rfl h1
    · exact iff_of_false nofun h1

theorem hrpBad_eq_decide (c : Byte) : hrpBad c = (c.toNat < 33 || 126 < c.toNat) := by
  rw [Bool.eq_iff_iff, hrpBad_iff]
  simp

theorem matchCode_eq_ite (a : AccWord) :
    matchCode a = if a = variantConst 0 then 0b10 else if a = variantConst 1 then 0b11 else 0b00 := rfl

/-- The code `CVFY` leaves, widened by the read view, says what the pure function finds (R75, R86). -/
theorem matchCode_polymod (hrp : List Byte) (data : List Sym) :
    (matchCode (polymod (expand hrp ++ data))).setWidth 32 =
      (verifyChecksum hrp data).elim (0x0 : ReadWord) fun v => if v = 0 then 0x2 else 0x3 := by
  rw [matchCode_eq_ite, verifyChecksum]
  split_ifs <;> rfl

/-! ## Case (R78) -/

/-- A change of the characters that folding does not see, and that keeps them in range or out of it, changes nothing of what an
HRP leaves (R89 law 3). -/
theorem regsAfterAll_chrp_map {f : Byte → Byte} (hfold : ∀ c, fold (f c) = fold c) (hbad : ∀ c, hrpBad (f c) = hrpBad c)
    (hrp : List Byte) (q : Regs) : regsAfterAll (chrp (hrp.map f)) q = regsAfterAll (chrp hrp) q := by
  have hhigh (c : Byte) : hrpHigh (f c) = hrpHigh c := by rw [hrpHigh, hfold, hrpHigh]
  have hlow (c : Byte) : hrpLow (f c) = hrpLow c := by rw [hrpLow, hfold, hrpLow]
  have hexpand : expand (hrp.map f) = expand hrp := by
    simp only [expand, List.map_map, Function.comp_def, hhigh, hlow]
  have hany : (hrp.map f).any hrpBad = hrp.any hrpBad := by
    simp only [List.any_map, Function.comp_def, hbad]
  rw [regsAfterAll_chrp, regsAfterAll_chrp, hexpand, hany]

theorem hrpBad_fold (c : Byte) : hrpBad (fold c) = hrpBad c := by
  rw [Bool.eq_iff_iff, hrpBad_iff, hrpBad_iff, fold_toNat]
  split <;> omega

/-- The upper-casing of one code (R104 property 2, D32). `upper_eq_map` ties it to `upper`. -/
def upperCode (c : Byte) : Byte :=
  if isLower c then c - 32 else c

theorem upper_eq_map (hrp : List Byte) : upper hrp = hrp.map upperCode := rfl

theorem upperCode_toNat (c : Byte) :
    (upperCode c).toNat = if 97 ≤ c.toNat ∧ c.toNat ≤ 122 then c.toNat - 32 else c.toNat := by
  simp only [upperCode, isLower, Bool.and_eq_true, decide_eq_true_eq]
  split
  · rw [BitVec.toNat_sub_of_le]
    · rfl
    · rw [BitVec.le_def]
      change 32 ≤ c.toNat
      omega
  · rfl

theorem fold_upperCode (c : Byte) : fold (upperCode c) = fold c := by
  apply BitVec.eq_of_toNat_eq
  rw [fold_toNat, fold_toNat, upperCode_toNat]
  split_ifs <;> omega

theorem hrpBad_upperCode (c : Byte) : hrpBad (upperCode c) = hrpBad c := by
  rw [Bool.eq_iff_iff, hrpBad_iff, hrpBad_iff, upperCode_toNat]
  split <;> omega

/-! ## The obligations on transactions -/

/-- Settles O42: the commands before `CFIN` are silent and absorb the expanded HRP and the data from 1. -/
theorem checksumTransactionComputesChecksum : Obligations.ChecksumTransactionComputesChecksum := by
  intro hrp data variant s hs
  have hsilent : AllSilent ([.cinit, .cvsel variant] ++ chrp hrp ++ cdata data) := by simp
  obtain ⟨t, hrun, hregs, hout, hrdata⟩ := issueAll_silent_append_singleton (j := .cfin) hsilent rfl hs
  rw [List.append_assoc, regsAfterAll_append, regsAfterAll_chrp_cdata] at hregs hout
  refine ⟨t, hrun, ?_, hrdata.trans (List.append_nil _), ?_⟩
  · rw [hout, ← checksumSymbols_polymod]
    rfl
  · simp only [← hrpBad_eq_decide]
    exact hregs

/-- Settles O43: the commands before `RD 2` are silent, and the last of them leaves in `MATCH` the code of the verdict. -/
theorem verifyTransactionComputesVerifyChecksum : Obligations.VerifyTransactionComputesVerifyChecksum := by
  intro hrp data s hs
  have hsilent : AllSilent ([.cinit] ++ chrp hrp ++ cdata data ++ [.cvfy]) := by simp
  obtain ⟨t, hrun, hregs, hout, hrdata⟩ := issueAll_silent_append_singleton (j := .rd 2) hsilent rfl hs
  rw [regsAfterAll_append, List.append_assoc [_], regsAfterAll_append, regsAfterAll_chrp_cdata] at hregs hrdata
  refine ⟨t, ?_, hout.trans (List.append_nil _), ?_, ?_, ?_⟩
  · rw [verifyChecksumCommands, ← hrun, List.append_assoc _ [Instr.cvfy] [Instr.rd 2]]
    rfl
  · rw [hrdata]
    refine congrArg (s.rdata ++ [·]) ((matchCode_polymod hrp data).trans ?_)
    cases verifyChecksum hrp data <;> rfl
  · rw [hregs]
    rfl
  · rw [hregs]
    rfl

/-- Settles O44: absorbing what `CFIN` emitted gives the constant of `VAR`, by `polysteps_checksumSymbols`. -/
theorem createdChecksumVerifies : Obligations.CreatedChecksumVerifies := by
  intro s hs
  have hsilent : AllSilent (cdata (checksumSymbols s.regs.acc s.regs.var) ++ [.cvfy]) := by simp
  have hcode : ∀ v : BitVec 1, matchCode (variantConst v) = if v = 0 then 0b10 else 0b11 := by decide
  obtain ⟨u, hrun, -, hregs, -⟩ := issueAll_of_silent hsilent (State.Idle.after hs .cfin)
  rw [regsAfterAll_append, regsAfterAll_cdata, Instr.after_regs, Instr.regsAfter, polysteps_checksumSymbols] at hregs
  refine ⟨_, _, u, rfl, issue_of_idle rfl hs, rfl, rfl, hrun, ?_, ?_⟩
  · rw [hregs]
    rfl
  · rw [← hcode, hregs]
    rfl

/-- Settles O45: neither lower-casing nor upper-casing changes what `fold` gives or what is out of range. -/
theorem prefixCaseDoesNotMatter : Obligations.PrefixCaseDoesNotMatter := by
  intro hrp s hs
  obtain ⟨t, hrun, -, hregs, -⟩ := issueAll_of_silent (allSilent_chrp hrp) hs
  obtain ⟨t', hrun', -, hregs', -⟩ := issueAll_of_silent (allSilent_chrp (lower hrp)) hs
  obtain ⟨t'', hrun'', -, hregs'', -⟩ := issueAll_of_silent (allSilent_chrp (upper hrp)) hs
  refine ⟨t, t', t'', hrun, hrun', hrun'', ?_, ?_⟩
  · rw [hregs, hregs', lower, regsAfterAll_chrp_map fold_fold hrpBad_fold]
  · rw [hregs, hregs'', upper_eq_map, regsAfterAll_chrp_map fold_upperCode hrpBad_upperCode]

/-- Settles O46: both sequences would end at the variant's constant; the symbols after the replaced one can be taken back, as
each step is one-to-one in the accumulator, and then the replaced symbol itself. -/
theorem oneSubstitutedSymbolIsDetected : Obligations.OneSubstitutedSymbolIsDetected := by
  intro hrp before after x y v hxy hx hy
  rw [verifyChecksum_eq_some_iff] at hx hy
  have hsame := hx.trans hy.symm
  simp only [polymod, polysteps_append, polysteps_cons] at hsame
  exact hxy (polystep_injective_symbol _ (polysteps_injective_acc after hsame))

end Sys2Proof.Machine

/-! PROOFS. The strings of the codec (spec/43_codec_sequences.md R91 to R97): the charset and its inverse, case, the last
separator, and the length cap. -/

namespace Sys2Proof.Machine

/-! ## The charset (R93, R94) -/

@[simp] theorem symOf_charOf (v : Sym) : symOf (charOf v) = some v := by
  revert v
  decide

theorem symOf_eq_none_iff (c : Byte) : symOf c = none ↔ c ∉ charset := by
  rw [symOf, Option.map_eq_none_iff, List.idxOf?_eq_none_iff]

/-- The inverse map answers the index of the character in the charset, which is below 32. -/
theorem charOf_of_symOf_eq_some {c : Byte} {v : Sym} (h : symOf c = some v) : charOf v = c := by
  obtain ⟨i, hi, rfl⟩ := Option.map_eq_some_iff.1 h
  obtain ⟨hlt, hget, -⟩ := List.idxOf?_eq_some_iff.1 hi
  have hi32 : (BitVec.ofNat 5 i).toNat = i := Nat.mod_eq_of_lt hlt
  rw [charOf, hi32, List.getD_eq_getElem _ _ hlt, hget]

theorem charOf_mem_charset (v : Sym) : charOf v ∈ charset :=
  not_not.1 ((symOf_eq_none_iff _).not.1 (by simp))

theorem not_isUpper_of_mem_charset {c : Byte} (h : c ∈ charset) : isUpper c = false := by
  revert c
  decide

theorem charOf_ne_separator (v : Sym) : charOf v ≠ separator := fun h =>
  absurd (h ▸ charOf_mem_charset v) (by decide)

/-- Every byte stands once among the 256 codes, so the valid codes among them are the charset in another order. -/
theorem countP_symOf_isSome : ((List.range 256).countP fun n => (symOf (BitVec.ofNat 8 n)).isSome) = 32 := by
  have hnodup : ((List.range 256).map (BitVec.ofNat 8)).Nodup := by
    refine List.Nodup.map_on (fun m hm n hn h => ?_) List.nodup_range
    rw [List.mem_range] at hm hn
    bv_omega
  have hperm : (((List.range 256).map (BitVec.ofNat 8)).filter fun c => (symOf c).isSome).Perm charset := by
    refine (List.perm_ext_iff_of_nodup (hnodup.filter _) (by decide)).2 fun c => ?_
    rw [List.mem_filter, ← Option.ne_none_iff_isSome, ne_eq, symOf_eq_none_iff, not_not]
    refine and_iff_right (List.mem_map.2 ⟨c.toNat, List.mem_range.2 c.isLt, ?_⟩)
    rw [BitVec.ofNat_toNat, BitVec.setWidth_eq]
  have hlength := hperm.length_eq
  rwa [← List.countP_eq_length_filter, List.countP_map] at hlength

/-- The data part of symbols is read back as the symbols, and nothing else is read as them (R99 step 5). -/
theorem symbolsOf_eq_some_iff (dp : List Byte) (d : List Sym) : symbolsOf dp = some d ↔ dp = d.map charOf := by
  induction dp generalizing d with
  | nil => simp [symbolsOf, eq_comm]
  | cons c dp ih =>
    simp only [symbolsOf, Option.bind_eq_some_iff, Option.map_eq_some_iff, ih]
    constructor
    · rintro ⟨v, hv, d, rfl, rfl⟩
      rw [List.map_cons, charOf_of_symOf_eq_some hv]
    · intro h
      obtain ⟨v, d, rfl, rfl, rfl⟩ := List.map_eq_cons_iff.1 h.symm
      exact ⟨v, symOf_charOf v, d, rfl, rfl⟩

/-! ## The last separator (R100) -/

theorem splitLast_eq_none_iff (str : List Byte) : splitLast str = none ↔ separator ∉ str := by
  induction str with
  | nil => simp [splitLast]
  | cons c str ih =>
    rw [List.mem_cons, not_or, ← ih, splitLast]
    cases splitLast str with
    | some parts => simp
    | none => simp [eq_comm]

/-- With no separator behind it a separator splits; every character before only lengthens the HRP. -/
theorem splitLast_append {dp : List Byte} (h : separator ∉ dp) (hrp : List Byte) :
    splitLast (hrp ++ separator :: dp) = some (hrp, dp) := by
  induction hrp with
  | nil => rw [List.nil_append, splitLast, (splitLast_eq_none_iff dp).2 h]; rfl
  | cons c hrp ih => rw [List.cons_append, splitLast, ih]

theorem splitLast_eq_some_iff (str hrp dp : List Byte) :
    splitLast str = some (hrp, dp) ↔ str = hrp ++ separator :: dp ∧ separator ∉ dp := by
  constructor
  · intro h
    induction str generalizing hrp with
    | nil => cases h
    | cons c str ih =>
      rw [splitLast] at h
      split at h
      · rename_i hrp' dp' hsplit
        obtain ⟨rfl, rfl⟩ : c :: hrp' = hrp ∧ dp' = dp := by simpa using h
        obtain ⟨rfl, hdp⟩ := ih hrp' hsplit
        exact ⟨rfl, hdp⟩
      · rename_i hnone
        obtain ⟨rfl, h⟩ := Option.ite_none_right_eq_some.1 h
        obtain ⟨rfl, rfl⟩ : [] = hrp ∧ str = dp := by simpa using h
        exact ⟨rfl, (splitLast_eq_none_iff _).1 hnone⟩
  · rintro ⟨rfl, hdp⟩
    exact splitLast_append hdp hrp

/-! ## Case (R92) -/

theorem isUpper_iff (c : Byte) : isUpper c = true ↔ 65 ≤ c.toNat ∧ c.toNat ≤ 90 := by
  simp [isUpper]

theorem isLower_iff (c : Byte) : isLower c = true ↔ 97 ≤ c.toNat ∧ c.toNat ≤ 122 := by
  simp [isLower]

theorem isUpper_fold (c : Byte) : isUpper (fold c) = false := by
  rw [← Bool.not_eq_true, isUpper_iff, fold_toNat]
  split <;> omega

theorem isLower_upperCode (c : Byte) : isLower (upperCode c) = false := by
  rw [← Bool.not_eq_true, isLower_iff, upperCode_toNat]
  split <;> omega

/-- Folding leaves a code that is not upper-case. -/
theorem fold_of_not_isUpper {c : Byte} (h : isUpper c = false) : fold c = c := by
  rw [← Bool.not_eq_true, isUpper_iff] at h
  exact if_neg h

@[simp] theorem lower_lower (str : List Byte) : lower (lower str) = lower str := by
  simp [lower]

@[simp] theorem lower_upper (str : List Byte) : lower (upper str) = lower str := by
  simp [lower, upper_eq_map, fold_upperCode]

@[simp] theorem lower_append (us vs : List Byte) : lower (us ++ vs) = lower us ++ lower vs :=
  List.map_append

@[simp] theorem lower_length (str : List Byte) : (lower str).length = str.length :=
  List.length_map _

@[simp] theorem upper_length (str : List Byte) : (upper str).length = str.length :=
  List.length_map _

@[simp] theorem mixedCase_lower (str : List Byte) : mixedCase (lower str) = false := by
  simp [mixedCase, lower, isUpper_fold]

@[simp] theorem mixedCase_upper (str : List Byte) : mixedCase (upper str) = false := by
  simp [mixedCase, upper_eq_map, isLower_upperCode]

theorem mixedCase_of_mem {str : List Byte} {a b : Byte} (ha : a ∈ str) (hb : b ∈ str) (hupper : isUpper a = true)
    (hlower : isLower b = true) : mixedCase str = true := by
  rw [mixedCase, List.any_of_mem ha hupper, List.any_of_mem hb hlower]
  rfl

/-- The charset is in lower case. -/
@[simp] theorem lower_map_charOf (d : List Sym) : lower (d.map charOf) = d.map charOf := by
  simp [lower, fold_of_not_isUpper (not_isUpper_of_mem_charset (charOf_mem_charset _))]

/-! ## The length cap (R97) -/

theorem overCap_none (len : Nat) : overCap none len = false := rfl

theorem overCap_some_iff (m len : Nat) : overCap (some m) len = true ↔ ¬ len ≤ m := by
  simp [overCap]

/-- A test on the answer of a computation is a test on the answer of its last part. -/
theorem filter_bind_eq_bind_filter {α β : Type} (x : Option α) (f : α → Option β) (p : β → Bool) :
    (x.bind f).filter p = x.bind fun a => (f a).filter p := by
  cases x <;> rfl

/-! ## The obligations on strings -/

/-- Settles O50: the two maps undo each other by `symOf_charOf` and `charOf_of_symOf_eq_some`, and the codes with no symbol
are those outside the charset. -/
theorem charsetIsABijection : Obligations.CharsetIsABijection := by
  refine ⟨by decide, countP_symOf_isSome, ?_, symOf_charOf, fun _ _ => charOf_of_symOf_eq_some, fun c hlow hhigh => ?_⟩
  · simp only [symOf_eq_none_iff]
    decide
  · rw [symOf_eq_none_iff]
    intro hmem
    exact absurd (not_isUpper_of_mem_charset hmem) (by rw [(isUpper_iff c).2 ⟨hlow, hhigh⟩]; decide)

/-- Settles O51, by the recursion of `splitLast`: `splitLast_eq_some_iff` and `splitLast_eq_none_iff`. -/
theorem splitIsAtTheLastSeparator : Obligations.SplitIsAtTheLastSeparator := by
  refine ⟨fun str hrp dp => ?_, splitLast_eq_none_iff⟩
  rw [splitLast_eq_some_iff, List.append_assoc, List.singleton_append]
  rfl

/-- Settles O56: `decode` sees its input through its case, its length and its lower-cased form alone. -/
theorem decodeIgnoresCaseAndRejectsMixedCase : Obligations.DecodeIgnoresCaseAndRejectsMixedCase := by
  refine ⟨fun maxLen str s => ⟨?_, fun hcase => ?_⟩, fun maxLen str s a b ha hb ha65 ha90 hb97 hb122 => ?_⟩
  · simp [decodeString]
  · simp [decodeString, hcase]
  · have hmixed := mixedCase_of_mem ha hb ((isUpper_iff a).2 ⟨ha65, ha90⟩) ((isLower_iff b).2 ⟨hb97, hb122⟩)
    rw [decodeString, if_pos hmixed]

/-- Settles O57: `encode` tests the cap on what it would return, `decode` on its input before anything else that can fail but
the case check. -/
theorem lengthCapOnlyRejectsLongerStrings : Obligations.LengthCapOnlyRejectsLongerStrings := by
  refine ⟨fun m hrp payload variant s => ?_, fun m input s => ?_⟩
  · simp only [encodeString, overCap_none, overCap_some_iff, filter_bind_eq_bind_filter, apply_ite (Option.filter _),
      Option.filter_none, Option.filter_some, decide_eq_true_eq, ite_not, Bool.false_eq_true, if_false]
  · rw [decodeString, decodeString, overCap_none, if_neg Bool.false_ne_true]
    simp only [overCap_some_iff, ite_not]
    split <;> split <;> rfl

end Sys2Proof.Machine

/-! PROOFS. The host's `encode` and `decode` over the engine (spec/43_codec_sequences.md R98 to R104): what each part of the two
procedures does on an idle engine, and the strings they write and accept. -/

namespace Sys2Proof

@[simp] theorem Instr.silent_srst : Instr.Silent .srst := ⟨rfl, fun _ => rfl, fun _ => rfl⟩

end Sys2Proof

namespace Sys2Proof.Machine

/-! ## Taking items and reading views -/

theorem issueTake_of_idle {i : Instr} {s : State} (hi : i.wellFormed = true) (hs : s.Idle) :
    issueTake i s = some (i.items s.regs, i.after s) := by
  rw [issueTake, issue_of_idle hi hs, Option.map_some, Instr.after_out, List.drop_left]

theorem issueRead_of_view {r : BitVec 3} {s : State} {w : ReadWord} (hs : s.Idle) (hw : s.regs.view r = some w) :
    issueRead r s = some (w, (Instr.rd r).after s) := by
  have hr : (Instr.rd r).wellFormed = true := decide_eq_true ((s.regs.view_isSome_iff r).1 (by rw [hw]; rfl))
  rw [issueRead, issue_of_idle hr hs, Option.bind_some, Instr.after_rdata, List.drop_left, Instr.words, hw]
  rfl

/-- Bit 0 of the read view `STATUS` is `HRPERR` (R22). -/
theorem Regs.status_getLsbD_zero (q : Regs) : q.status.getLsbD 0 = decide (q.hrpErr = 1) := by
  have hbit : ∀ c p h : BitVec 1, ((c.setWidth 32 <<< 2) ||| (p.setWidth 32 <<< 1) ||| h.setWidth 32 : BitVec 32).getLsbD 0 =
      decide (h = 1) := by decide
  exact hbit q.cmdErr q.padErr q.hrpErr

/-! ## The HRP (R96) -/

theorem validHrp_iff (hrp : List Byte) : validHrp hrp = true ↔ hrp ≠ [] ∧ hrp.any hrpBad = false := by
  simp [validHrp, hrpBad_eq_decide]

theorem expand_lower (hrp : List Byte) : expand (lower hrp) = expand hrp := by
  have hhigh (c : Byte) : hrpHigh (fold c) = hrpHigh c := by rw [hrpHigh, fold_fold, hrpHigh]
  have hlow (c : Byte) : hrpLow (fold c) = hrpLow c := by rw [hrpLow, fold_fold, hrpLow]
  simp only [expand, lower, List.map_map, Function.comp_def, hhigh, hlow]

theorem checksum_lower (hrp : List Byte) (d : List Sym) (variant : BitVec 1) :
    checksum (lower hrp) d variant = checksum hrp d variant := by
  rw [checksum, expand_lower, checksum]

theorem validHrp_lower (hrp : List Byte) : validHrp (lower hrp) = validHrp hrp := by
  rw [Bool.eq_iff_iff, validHrp_iff, validHrp_iff]
  simp [lower, hrpBad_fold]

/-- Both procedures begin by absorbing the HRP from the reset values and reading the range check (R98 steps 2 to 4, R99
step 6). -/
theorem issueAll_reset_chrp {is : List Instr} {variant : BitVec 1} (hrp : List Byte) {s : State} (hs : s.Idle)
    (hi : AllSilent is) (hreset : regsAfterAll is s.regs = { Regs.reset with var := variant }) :
    ∃ (t u : State) (w : ReadWord), issueAll (is ++ chrp hrp) s = some t ∧ issueRead 3 t = some (w, u) ∧ u.Idle ∧
      w.getLsbD 0 = hrp.any hrpBad ∧
      u.regs = { Regs.reset with
        acc := polymod (expand hrp), var := variant, hrpErr := if hrp.any hrpBad then 1 else 0 } := by
  obtain ⟨t, hrun, hidle, hregs, -⟩ := issueAll_of_silent (is := is ++ chrp hrp) (by simp [hi]) hs
  rw [regsAfterAll_append, regsAfterAll_chrp, hreset] at hregs
  refine ⟨t, _, _, hrun, issueRead_of_view hidle rfl, hidle.after _, ?_, hregs⟩
  rw [Regs.status_getLsbD_zero, hregs]
  cases hrp.any hrpBad <;> rfl

/-! ## Encode (R98) -/

/-- The engine emits symbols, and the host absorbs them (R98 step 5). -/
theorem packAbsorb_of_items {i : Instr} {symbols : List Sym} {s : State} (hi : i.wellFormed = true) (hs : s.Idle)
    (hitems : i.items s.regs = symbols.map (·.setWidth 8)) :
    ∃ t, packAbsorb i s = some (symbols, t) ∧ t.Idle ∧
      t.regs = { i.regsAfter s.regs with acc := polysteps (i.regsAfter s.regs).acc symbols } := by
  obtain ⟨t, hrun, hidle, hregs, -⟩ := issueAll_of_silent (allSilent_cdata symbols) (hs.after i)
  have hsymbols : (i.items s.regs).map (·.setWidth 5) = symbols := by
    simp [hitems, Function.comp_def, BitVec.setWidth_setWidth_of_le]
  refine ⟨t, ?_, hidle, ?_⟩
  · rw [packAbsorb, issueTake_of_idle hi hs]
    simp only [Option.bind_some, hsymbols, hrun, Option.map_some]
  · rw [hregs, regsAfterAll_cdata]
    rfl

/-- The payload's part of `encode` absorbs the symbols it answers, and they hold the bits held, the bytes' bits and a padding
of fewer than 5 zeros (R98 step 5). -/
theorem encodePayload_of_idle (bytes : List Byte) {s : State} (hs : s.Idle) (hp : s.regs.PackerOk) :
    ∃ (t : State) (symbols : List Sym), encodePayload bytes s = some (symbols, t) ∧ t.Idle ∧
      t.regs.acc = polysteps s.regs.acc symbols ∧ t.regs.var = s.regs.var ∧
      ∃ pad < 5, bitString symbols = s.regs.packerBits ++ bitString bytes ++ List.replicate pad false := by
  induction bytes generalizing s with
  | nil =>
    obtain ⟨t, hrun, hidle, hregs⟩ := packAbsorb_of_items (i := .pfl) (symbols := flushItems s.regs) rfl hs rfl
    refine ⟨t, _, hrun, hidle, by rw [hregs]; rfl, by rw [hregs]; rfl, ?_⟩
    rw [bitString_nil, List.append_nil]
    exact bitString_flushItems hp.1
  | cons b bytes ih =>
    obtain ⟨t, hrun, hidle, hregs⟩ := packAbsorb_of_items (i := .pb8 b) (symbols := packItems s.regs b) rfl hs rfl
    have hbits : t.regs.packerBits = (s.regs.pack b).packerBits := by rw [hregs]; rfl
    obtain ⟨u, symbols, hrest, hidle', hacc, hvar, pad, hpad, hsymbols⟩ :=
      ih hidle (by rw [hregs]; exact s.regs.pack_packerOk b)
    refine ⟨u, packItems s.regs b ++ symbols, ?_, hidle', ?_, ?_, pad, hpad, ?_⟩
    · rw [encodePayload, hrun]
      simp only [Option.bind_some, hrest, Option.map_some]
    · rw [hacc, hregs, polysteps_append]
      rfl
    · rw [hvar, hregs]
      rfl
    · rw [bitString_append, hsymbols, hbits, bitString_cons]
      simp only [← List.append_assoc, bitString_packItems]

/-- The string of an HRP, payload symbols and their checksum (R95, R98). -/
def checksummed (hrp : List Byte) (d : List Sym) (variant : BitVec 1) : List Byte :=
  lower hrp ++ [0x31] ++ d.map charOf ++ (checksum hrp d variant).map charOf

theorem lower_checksummed (hrp : List Byte) (d : List Sym) (variant : BitVec 1) :
    lower (checksummed hrp d variant) = checksummed hrp d variant := by
  simp only [checksummed, lower_append, lower_lower, lower_map_charOf]
  rfl

/-- The string's data part is the payload symbols and the checksum. -/
theorem checksummed_eq_append (hrp : List Byte) (d : List Sym) (variant : BitVec 1) :
    checksummed hrp d variant = lower hrp ++ separator :: (d ++ checksum hrp d variant).map charOf := by
  simp [checksummed, separator]

/-- For a valid HRP `encode` answers the string, and leaves the engine idle. -/
theorem encodeString_of_validHrp {hrp : List Byte} (hvalid : validHrp hrp = true) (payload : List Byte) (variant : BitVec 1)
    {s : State} (hs : s.Idle) :
    ∃ t, encodeString none hrp payload variant s = some (checksummed hrp (bytesToBits5 payload) variant, t) ∧ t.Idle := by
  obtain ⟨hne, hbad⟩ := (validHrp_iff hrp).1 hvalid
  obtain ⟨s3, s4, w, hhrp, hread, hidle, hw, hregs⟩ :=
    issueAll_reset_chrp (is := [.srst, .cvsel variant]) hrp hs (by simp) rfl
  obtain ⟨s5, d, hpayload, hidle', hacc, hvar, pad, hpad, hbits⟩ :=
    encodePayload_of_idle payload hidle (by rw [hregs]; exact ⟨Nat.zero_le _, Nat.one_pos⟩)
  have hd : d = bytesToBits5 payload := eq_bytesToBits5 hpad (by rw [hbits, hregs]; rfl)
  have hck : checksumSymbols s5.regs.acc s5.regs.var = checksum hrp d variant := by
    have hpolymod : s5.regs.acc = polymod (expand hrp ++ d) := by
      rw [hacc, hregs]
      exact (polysteps_append _ _ _).symm
    rw [hpolymod, hvar, hregs, checksumSymbols_polymod]
  have hchars (k : List Sym) : (k.map (·.setWidth 8)).map (fun v => charOf (v.setWidth 5)) = k.map charOf := by
    simp [Function.comp_def, BitVec.setWidth_setWidth_of_le]
  refine ⟨Instr.cfin.after s5, ?_, hidle'.after _⟩
  rw [encodeString, if_neg hne, hhrp]
  simp only [Option.bind_some, hread, hw, hbad, hpayload, issueTake_of_idle (i := .cfin) rfl hidle', Instr.items, hck, hchars,
    overCap_none, Bool.false_eq_true, if_false, hd]
  rfl

theorem encodeString_of_not_validHrp {hrp : List Byte} (hvalid : ¬ validHrp hrp = true) (payload : List Byte)
    (variant : BitVec 1) {s : State} (hs : s.Idle) : encodeString none hrp payload variant s = none := by
  by_cases hne : hrp = []
  · exact if_pos hne
  · have hbad : hrp.any hrpBad = true := by simpa [validHrp_iff, hne] using hvalid
    obtain ⟨s3, s4, w, hhrp, hread, -, hw, -⟩ :=
      issueAll_reset_chrp (is := [.srst, .cvsel variant]) hrp hs (by simp) rfl
    rw [encodeString, if_neg hne, hhrp, Option.bind_some, hread, Option.bind_some]
    exact if_pos (hw.trans hbad)

/-! ## The checksum is the only one (R89 law 1) -/

/-- Symbols spelled behind a number can be read off again when their count is known. -/
theorem spelled_injective {us vs : List Sym} (hlen : us.length = vs.length) {m n : Nat} (h : spelled m us = spelled n vs) :
    m = n ∧ us = vs := by
  induction us generalizing vs m n with
  | nil =>
    obtain rfl := List.eq_nil_of_length_eq_zero hlen.symm
    exact ⟨h, rfl⟩
  | cons u us ih =>
    cases vs with
    | nil => cases hlen
    | cons v vs =>
      have hu := u.isLt
      have hv := v.isLt
      obtain ⟨hhead : 2 ^ 5 * m + u.toNat = 2 ^ 5 * n + v.toNat, rfl⟩ := ih (Nat.succ.inj hlen) h
      obtain rfl : u = v := BitVec.eq_of_toNat_eq (by omega)
      exact ⟨by omega, rfl⟩

/-- Two sequences of six symbols that bring an accumulator to the same value are the same: absorbed from 0 they are the value's
groups, and the accumulator only adds to that. -/
theorem eq_of_polysteps_eq {a : AccWord} {us vs : List Sym} (hus : us.length = 6) (hvs : vs.length = 6)
    (h : polysteps a us = polysteps a vs) : us = vs := by
  have hzero : polysteps 0#30 us = polysteps 0#30 vs := by
    rw [← BitVec.xor_zero (x := a), polysteps_xor, polysteps_xor, hus, hvs] at h
    exact (BitVec.xor_right_inj _).1 h
  have hspell {ws : List Sym} (hws : ws.length = 6) : (polysteps 0#30 ws).toNat = spelled 0 ws :=
    polysteps_toNat (by rw [hws]; decide)
  have hnat := congrArg BitVec.toNat hzero
  rw [hspell hus, hspell hvs] at hnat
  exact (spelled_injective (hus.trans hvs.symm) hnat).2

/-- Six symbols behind the data verify as a variant exactly when they are the checksum of that variant (R74, R75). -/
theorem verifyChecksum_append_eq_some_iff {hrp : List Byte} {d k : List Sym} (hk : k.length = 6) (v : BitVec 1) :
    verifyChecksum hrp (d ++ k) = some v ↔ k = checksum hrp d v := by
  rw [verifyChecksum_eq_some_iff, ← List.append_assoc, polymod, polysteps_append, ← checksumSymbols_polymod, ← polymod,
    ← polysteps_checksumSymbols (polymod (expand hrp ++ d)) v]
  exact ⟨eq_of_polysteps_eq hk rfl, fun h => by rw [h]⟩

/-! ## Decode (R99) -/

/-- The check of the checksum on the engine reads the code of the pure function's verdict, and leaves the channels and `PADERR`
as they were (R99 step 7). -/
theorem issueAll_cdata_cvfy {hrp : List Byte} (d : List Sym) {s : State} (hs : s.Idle)
    (hacc : s.regs.acc = polymod (expand hrp)) :
    ∃ t u : State, issueAll (cdata d ++ [.cvfy]) s = some t ∧
      issueRead 2 t = some ((verifyChecksum hrp d).elim 0x0 (fun v => if v = 0 then 0x2 else 0x3), u) ∧ u.Idle ∧
      u.regs = { s.regs with acc := polymod (expand hrp ++ d), mtch := matchCode (polymod (expand hrp ++ d)) } := by
  obtain ⟨t, hrun, hidle, hregs, -⟩ := issueAll_of_silent (is := cdata d ++ [.cvfy]) (by simp) hs
  rw [regsAfterAll_append, regsAfterAll_cdata, hacc, polymod, ← polysteps_append, ← polymod] at hregs
  refine ⟨t, _, hrun, issueRead_of_view hidle ?_, hidle.after _, hregs⟩
  rw [← matchCode_polymod, hregs]
  rfl

/-- The bytes `decode` takes and what it leaves in the unpacker are what was held, then the symbols' bits (R99 step 8). -/
theorem decodePayload_of_idle (d : List Sym) {s : State} (hs : s.Idle) (hu : s.regs.UnpackerOk) :
    ∃ (t : State) (bytes : List Byte), decodePayload d s = some (bytes, t) ∧ t.Idle ∧ t.regs.UnpackerOk ∧
      t.regs.padErr = s.regs.padErr ∧
      bitString bytes ++ t.regs.unpackerBits = s.regs.unpackerBits ++ bitString d := by
  induction d generalizing s with
  | nil => exact ⟨s, [], rfl, hs, hu, rfl, by rw [bitString_nil, bitString_nil, List.nil_append, List.append_nil]⟩
  | cons v d ih =>
    obtain ⟨t, bytes, hrun, hidle, hok, hpad, hbits⟩ :=
      ih (s := (Instr.us5 v).after s) (hs.after _) (Instr.regsAfter_unpackerOk _ hu)
    refine ⟨t, unpackItems s.regs v ++ bytes, ?_, hidle, hok, hpad, ?_⟩
    · have hitems : (Instr.us5 v).items s.regs = unpackItems s.regs v := by simp [Instr.items]
      rw [decodePayload, issueTake_of_idle rfl hs]
      simp only [Option.bind_some, hrun, Option.map_some, hitems]
    · rw [bitString_append, List.append_assoc, hbits, Instr.after_regs, Instr.regsAfter, bitString_cons]
      simp only [← List.append_assoc, bitString_unpackItems]

/-- From an empty unpacker the engine's part of R99 steps 8 and 9 is the document's function of the symbols (R64): bit 1 of the
word read says whether it fails. -/
theorem decodePayload_uend (d : List Sym) {s : State} (hs : s.Idle) (hbits : s.regs.unpackerBits = [])
    (hu : s.regs.UnpackerOk) (hpad : s.regs.padErr = 0) :
    ∃ (t t' u : State) (bytes : List Byte) (w : ReadWord), decodePayload d s = some (bytes, t) ∧
      issueAll [.uend] t = some t' ∧ issueRead 3 t' = some (w, u) ∧
      bits5ToBytes d = if w.getLsbD 1 then none else some bytes := by
  obtain ⟨t, bytes, hrun, hidle, hok, hpad', hsplit⟩ := decodePayload_of_idle d hs hu
  rw [hbits, List.nil_append] at hsplit
  have hlt : t.regs.unpackerBits.length < 8 := by
    rw [Regs.unpackerBits_length]
    exact t.regs.ucnt.isLt
  have hbit : (Instr.uend.after t).regs.status.getLsbD 1 = decide (true ∈ t.regs.unpackerBits) := by
    rw [Regs.status_getLsbD_one]
    simp [Regs.true_mem_unpackerBits_iff hok, Instr.regsAfter, padErrAfter, hpad', hpad]
  refine ⟨t, Instr.uend.after t, _, bytes, _, hrun, issueAll_of_idle (by simp [Instr.wellFormed]) hidle,
    issueRead_of_view (hidle.after .uend) rfl, ?_⟩
  rw [bits5ToBytes_of_append hlt hsplit, hbit]
  simp only [decide_eq_true_eq]

/-- The engine's part of `decode` by the pure functions: the HRP's characters are in range, the data part verifies, and its
symbols but the last six regroup (R99 steps 6 to 9). -/
theorem decodeSymbols_map_fst (hrp : List Byte) (d : List Sym) {s : State} (hs : s.Idle) :
    (decodeSymbols hrp d s).map Prod.fst =
      if hrp.any hrpBad then none
      else (verifyChecksum hrp d).bind fun v =>
        (bits5ToBytes (d.take (d.length - 6))).map fun bytes => ⟨hrp, bytes, v⟩ := by
  obtain ⟨s6, s6', w, hhrp, hread, hidle, hw, hregs⟩ :=
    issueAll_reset_chrp (is := [.srst]) (variant := 0) hrp hs (by simp) rfl
  obtain ⟨s7, s7', hdata, hmatch, hidle', hregs'⟩ := issueAll_cdata_cvfy (hrp := hrp) d hidle (by rw [hregs])
  rw [hregs] at hregs'
  obtain ⟨s8, s8', s9, bytes, w', hpayload, huend, hread', hbytes⟩ :=
    decodePayload_uend (d.take (d.length - 6)) hidle' (by rw [hregs']; rfl) (by rw [hregs']; exact Nat.one_pos)
      (by rw [hregs']; rfl)
  have hvariant : ∀ v : BitVec 1, (if v = 0 then 0x2 else 0x3 : ReadWord) ≠ 0 ∧
      (if v = 0 then 0x2 else 0x3 : ReadWord).extractLsb' 0 1 = v := by decide
  rw [decodeSymbols, hhrp, Option.bind_some, hread]
  simp only [Option.bind_some, hw, hdata, hmatch, hpayload, huend, hread', hbytes]
  split
  · rfl
  · cases verifyChecksum hrp d with
    | none => rfl
    | some v =>
      obtain ⟨hne, hv⟩ := hvariant v
      simp only [Option.elim_some, Option.bind_some, if_neg hne, hv]
      split <;> rfl

/-- `decode` of a string of one case that parses is the engine's part on its HRP and its symbols (R99 steps 1 to 5). -/
theorem decodeString_of_parts {input hrp : List Byte} {d : List Sym} (hcase : mixedCase input = false)
    (hinput : lower input = hrp ++ separator :: d.map charOf) (hne : hrp ≠ []) (hlen : 6 ≤ d.length) (s : State) :
    decodeString none input s = decodeSymbols hrp d s := by
  have hsep : separator ∉ d.map charOf := by simp [charOf_ne_separator]
  rw [decodeString, hcase, hinput, splitLast_append hsep, overCap_none]
  simp [hne, (symbolsOf_eq_some_iff _ _).2 rfl, Nat.not_lt.2 hlen]

/-- What `decode` accepts parses (R99 steps 1 to 5). -/
theorem exists_parts_of_decodeString_eq_some {input : List Byte} {s : State} {x : CodecResult × State}
    (h : decodeString none input s = some x) :
    mixedCase input = false ∧ ∃ (hrp : List Byte) (d : List Sym),
      lower input = hrp ++ separator :: d.map charOf ∧ hrp ≠ [] ∧ 6 ≤ d.length ∧ decodeSymbols hrp d s = some x := by
  rw [decodeString, Option.ite_none_left_eq_some, Option.ite_none_left_eq_some] at h
  obtain ⟨hcase, -, h⟩ := h
  obtain ⟨⟨hrp, dp⟩, hsplit, h⟩ := Option.bind_eq_some_iff.1 h
  rw [Option.ite_none_left_eq_some, Option.ite_none_left_eq_some] at h
  obtain ⟨hne, hlen, h⟩ := h
  obtain ⟨d, hd, hrun⟩ := Option.bind_eq_some_iff.1 h
  obtain rfl := (symbolsOf_eq_some_iff dp d).1 hd
  rw [List.length_map, Nat.not_lt] at hlen
  exact ⟨Bool.eq_false_iff.2 hcase, hrp, d, ((splitLast_eq_some_iff _ _ _).1 hsplit).1, hne, hlen, hrun⟩

/-! ## The obligations on `encode` and `decode` -/

/-- Settles O52: the engine emits `bytesToBits5` of the payload and the checksum of that. -/
theorem encodeReturnsTheEncodedString : Obligations.EncodeReturnsTheEncodedString := by
  intro hrp payload variant s hs
  by_cases hvalid : validHrp hrp = true
  · obtain ⟨t, hrun, -⟩ := encodeString_of_validHrp hvalid payload variant hs
    rw [hrun, if_pos hvalid]
    rfl
  · rw [encodeString_of_not_validHrp hvalid payload variant hs, if_neg hvalid]
    rfl

/-- Settles O53: the string parses into the lower-cased HRP and the symbols with their checksum, which verify as the variant. -/
theorem decodeOfAChecksummedString : Obligations.DecodeOfAChecksummedString := by
  intro hrp d variant s hs hvalid
  change (decodeString none (checksummed hrp d variant) s).map Prod.fst = _
  obtain ⟨hne, hbad⟩ := (validHrp_iff (lower hrp)).1 ((validHrp_lower hrp).trans hvalid)
  have hck : (checksum hrp d variant).length = 6 := rfl
  have hverify : verifyChecksum (lower hrp) (d ++ checksum hrp d variant) = some variant :=
    (verifyChecksum_append_eq_some_iff hck variant).2 (checksum_lower hrp d variant).symm
  have hcase : mixedCase (checksummed hrp d variant) = false := by
    rw [← lower_checksummed, mixedCase_lower]
  have hparts := (lower_checksummed hrp d variant).trans (checksummed_eq_append hrp d variant)
  rw [decodeString_of_parts hcase hparts hne (by simp [hck]), decodeSymbols_map_fst _ _ hs, hbad, hverify]
  simp [hck]

/-- Settles O54: the last six symbols verify, so they are the checksum of the others. -/
theorem decodeAcceptsOnlyChecksummedStrings : Obligations.DecodeAcceptsOnlyChecksummedStrings := by
  intro input s t r hs h
  obtain ⟨hcase, hrp, d, hinput, hne, hlen, hsymbols⟩ := exists_parts_of_decodeString_eq_some h
  have hresult := decodeSymbols_map_fst hrp d hs
  rw [hsymbols, Option.map_some, eq_comm, Option.ite_none_left_eq_some] at hresult
  obtain ⟨hbad, hresult⟩ := hresult
  obtain ⟨v, hverify, hmap⟩ := Option.bind_eq_some_iff.1 hresult
  obtain ⟨bytes, hbytes, rfl⟩ := Option.map_eq_some_iff.1 hmap
  have hck : d.drop (d.length - 6) = checksum hrp (d.take (d.length - 6)) v := by
    rw [← verifyChecksum_append_eq_some_iff (by rw [List.length_drop]; omega), List.take_append_drop]
    exact hverify
  refine ⟨hcase, (validHrp_iff hrp).2 ⟨hne, Bool.eq_false_iff.2 hbad⟩, d.take (d.length - 6), hbytes, ?_⟩
  rw [hinput, ← hck, List.append_assoc, ← List.map_append, List.take_append_drop, List.append_assoc]
  rfl

/-- Settles O55: `encode` writes a checksummed string of symbols that regroup to the payload (R72), and leaves the engine
idle. -/
theorem decodeOfEncodeIsThePayload : Obligations.DecodeOfEncodeIsThePayload := by
  intro hrp payload variant s hs hvalid
  obtain ⟨-, -, hround, -⟩ := regroupingLaws
  obtain ⟨t, hencode, hidle⟩ := encodeString_of_validHrp hvalid payload variant hs
  have hdecode := decodeOfAChecksummedString hrp (bytesToBits5 payload) variant t hidle hvalid
  rw [hround, Option.map_some] at hdecode
  obtain ⟨⟨r, u⟩, hrun, rfl⟩ := Option.map_eq_some_iff.1 hdecode
  exact ⟨_, t, u, hencode, hrun⟩

end Sys2Proof.Machine

/-! PROOFS. Exceptions (spec/60_exceptions.md): a refusal is the engine's one exception, and no command has another outcome than
a next state. -/

namespace Sys2Proof

/-- The numbers of the two refusal codes (R105). -/
theorem Reject.code_eq_ite (e : Reject) : e.code = if e = .illOp then 1 else 2 := by
  cases e <;> rfl

end Sys2Proof

namespace Sys2Proof.Machine

/-- `CMDERR` is sticky: a step on any word but that of `SRST` leaves it set (R106). -/
theorem step_keeps_cmdErr {s t : State} {w : CmdWord} {ws : List CmdWord} (h : s.cmd = w :: ws) (hs : step s = .next t)
    (hw : w ≠ encode .srst) (hset : s.regs.cmdErr = 1) : t.regs.cmdErr = 1 := by
  obtain ⟨i, hd, rfl⟩ | ⟨e, -, rfl⟩ := step_cases_of_cmd_cons h hs
  · have hwf := wellFormed_of_decode_eq_command hd
    have hi : i ≠ .srst := fun hi => hw ((eq_encode_iff_of_decode_eq_command hd rfl).2 hi)
    rw [Instr.after_regs, Instr.regsAfter_cmdErr hwf, if_neg hi, hset]
  · rw [State.refuse_regs]

/-- Settles O4: the next state of a refused word is that of `State.refuse`, and `step_keeps_cmdErr` says when `CMDERR` stays
set. -/
theorem refusedWordOnlySetsCmderr : Obligations.RefusedWordOnlySetsCmderr := by
  refine ⟨fun s w ws e h hd => ?_, fun s t hs hset => ?_⟩
  · rw [step_of_refuse h hd, ← Reject.code_eq_ite]
    rfl
  · cases hc : s.cmd with
    | nil =>
      rw [step_of_cmd_nil hc, Host.Outcome.next.injEq] at hs
      exact .inl (hs ▸ hset)
    | cons w ws =>
      by_cases hw : w = encode .srst
      · exact .inr (congrArg some hw)
      · exact .inl (step_keeps_cmdErr hc hs hw hset)

/-- Settles O6: the next state is that of `exec_eq_next`. -/
theorem everyCommandCompletes : Obligations.EveryCommandCompletes := by
  intro i s
  refine ⟨i.after s, exec_eq_next i s, i.after_cmd s, fun hi => ?_⟩
  rw [Instr.after_cpl, Instr.code_of_wellFormed hi]

end Sys2Proof.Machine

/-! PROOFS. Reset and hazards (spec/70_reset_and_hazards.md): the machine right after reset, and how many commands each
transaction puts on `CMD`. -/

namespace Sys2Proof.Machine

/-- Settles O2: with no word waiting, reset is a state that a step leaves alone. -/
theorem resetIsIdleWithEmptyPorts : Obligations.ResetIsIdleWithEmptyPorts :=
  ⟨rfl, rfl, rfl, rfl, step_of_cmd_nil rfl⟩

/-- The expanded prefix is `2n + 1` commands (R56). -/
@[simp] theorem chrp_length (hrp : List Byte) : (chrp hrp).length = 2 * hrp.length + 1 := by
  simp only [chrp, csep, List.length_append, List.length_map, List.length_singleton]
  omega

@[simp] theorem cdata_length (symbols : List Sym) : (cdata symbols).length = symbols.length :=
  List.length_map _

/-- Settles O58: each transaction is a fixed number of commands around the two passes over the prefix and the one pass over
the symbols or bytes. -/
theorem transactionsAreLinearInTheirInput : Obligations.TransactionsAreLinearInTheirInput := by
  refine ⟨fun hrp data v => ?checksum, fun hrp data => ?verifyChecksum, fun bytes => ?bytesToBits5,
    fun symbols => ?bits5ToBytes⟩
  case checksum =>
    simp [checksumCommands]
    omega
  case verifyChecksum =>
    simp [verifyChecksumCommands]
    omega
  case bytesToBits5 => simp +arith [bytesToBits5Commands]
  case bits5ToBytes => simp +arith [bits5ToBytesCommands]

end Sys2Proof.Machine
